-- ==== Sys2Proof/Word.lean ====
section
/-! DEFINITION. The word types of the block (00_scope.md R5, R8, R9): every value is an unsigned
number of a stated width. -/

namespace Sys2Proof

/-- A memory byte, a general register, a timer, an 8-bit immediate. -/
abbrev Byte := BitVec 8

/-- An instruction word, the program counter, the index register, a stack entry. -/
abbrev Word := BitVec 16

/-- A 4-bit immediate: sprite height or scroll count. -/
abbrev Nibble := BitVec 4

/-- A 12-bit address immediate `nnn`. -/
abbrev Addr := BitVec 12

/-- The number of a general register, 0 to 15 (10_state.md R20). -/
abbrev Reg := Fin 16

end Sys2Proof
end

