-- ==== Sys2Proof/Syntax.lean ====
section
/-! DEFINITION. The instructions: one constructor per row of spec/opcode_table.json, in its order
(30_encoding.md R74). -/

namespace Sys2Proof

inductive Instr where
  /-- `SCD n` -/
  | scdN (n : Nibble)
  | cls
  | ret
  | scr
  | scl
  | exit
  | low
  | high
  /-- `JP nnn` -/
  | jpNnn (nnn : Addr)
  /-- `CALL nnn` -/
  | callNnn (nnn : Addr)
  /-- `SE Vx, kk` -/
  | seVxKk (x : Reg) (kk : Byte)
  /-- `SNE Vx, kk` -/
  | sneVxKk (x : Reg) (kk : Byte)
  /-- `SE Vx, Vy` -/
  | seVxVy (x y : Reg)
  /-- `LD Vx, kk` -/
  | ldVxKk (x : Reg) (kk : Byte)
  /-- `ADD Vx, kk` -/
  | addVxKk (x : Reg) (kk : Byte)
  /-- `LD Vx, Vy` -/
  | ldVxVy (x y : Reg)
  /-- `OR Vx, Vy` -/
  | orVxVy (x y : Reg)
  /-- `AND Vx, Vy` -/
  | andVxVy (x y : Reg)
  /-- `XOR Vx, Vy` -/
  | xorVxVy (x y : Reg)
  /-- `ADD Vx, Vy` -/
  | addVxVy (x y : Reg)
  /-- `SUB Vx, Vy` -/
  | subVxVy (x y : Reg)
  /-- `SHR Vx, Vy` -/
  | shrVxVy (x y : Reg)
  /-- `SUBN Vx, Vy` -/
  | subnVxVy (x y : Reg)
  /-- `SHL Vx, Vy` -/
  | shlVxVy (x y : Reg)
  /-- `SNE Vx, Vy` -/
  | sneVxVy (x y : Reg)
  /-- `LD I, nnn` -/
  | ldINnn (nnn : Addr)
  /-- `JP V0, nnn` -/
  | jpV0Nnn (nnn : Addr)
  /-- `RND Vx, kk` -/
  | rndVxKk (x : Reg) (kk : Byte)
  /-- `DRW Vx, Vy, 0`, the extended draw -/
  | drwVxVy0 (x y : Reg)
  /-- `DRW Vx, Vy, n`, the classic draw, `n` in 1 to 15 -/
  | drwVxVyN (x y : Reg) (n : Nibble)
  /-- `SKP Vx` -/
  | skpVx (x : Reg)
  /-- `SKNP Vx` -/
  | sknpVx (x : Reg)
  /-- `LD Vx, DT` -/
  | ldVxDt (x : Reg)
  /-- `LD Vx, K` -/
  | ldVxK (x : Reg)
  /-- `LD DT, Vx` -/
  | ldDtVx (x : Reg)
  /-- `LD ST, Vx` -/
  | ldStVx (x : Reg)
  /-- `ADD I, Vx` -/
  | addIVx (x : Reg)
  /-- `LD F, Vx` -/
  | ldFVx (x : Reg)
  /-- `LD B, Vx` -/
  | ldBVx (x : Reg)
  /-- `LD [I], Vx` -/
  | ldMemVx (x : Reg)
  /-- `LD Vx, [I]` -/
  | ldVxMem (x : Reg)
  /-- `LD R, Vx` -/
  | ldRVx (x : Reg)
  /-- `LD Vx, R` -/
  | ldVxR (x : Reg)
  deriving DecidableEq, Repr

end Sys2Proof
end

