-- ==== Sys2Proof/WellFormed.lean ====
section
/-! DEFINITION. Which terms of `Instr` are instructions of the block. Register numbers and immediates
are bounded by their types (30_encoding.md R71); the one check left is the constraint of the classic
draw (30_encoding.md R78). -/

namespace Sys2Proof

/-- `n != 0` for the classic draw (`Dxy0` is the extended one); every other field takes every value
(30_encoding.md R80). -/
def Instr.wellFormed : Instr → Bool
  | .drwVxVyN _ _ n => n != 0
  | .scdN _ | .cls | .ret | .scr | .scl | .exit | .low | .high => true
  | .jpNnn _ | .callNnn _ | .ldINnn _ | .jpV0Nnn _ => true
  | .seVxKk _ _ | .sneVxKk _ _ | .ldVxKk _ _ | .addVxKk _ _ | .rndVxKk _ _ => true
  | .seVxVy _ _ | .sneVxVy _ _ | .ldVxVy _ _ | .orVxVy _ _ | .andVxVy _ _ | .xorVxVy _ _ => true
  | .addVxVy _ _ | .subVxVy _ _ | .shrVxVy _ _ | .subnVxVy _ _ | .shlVxVy _ _ => true
  | .drwVxVy0 _ _ | .skpVx _ | .sknpVx _ | .ldVxDt _ | .ldVxK _ | .ldDtVx _ | .ldStVx _ => true
  | .addIVx _ | .ldFVx _ | .ldBVx _ | .ldMemVx _ | .ldVxMem _ | .ldRVx _ | .ldVxR _ => true

end Sys2Proof
end

