-- ==== Sys2Proof/Decode.lean ====
section
/-! DEFINITION. The decoder and, after it, the encoder (30_encoding.md R70 to R78; the rows of
spec/opcode_table.json). -/

namespace Sys2Proof

/-- Why bytes are not an instruction. -/
inductive DecodeError where
  /-- the word matches no row of the opcode map (30_encoding.md R75); it carries the word -/
  | decodeFailure (w : Word)
  /-- fewer than the two bytes of a word -/
  | truncated
  deriving DecidableEq, Repr

/-- `op = w[15:12]` (30_encoding.md R71). -/
def opField (w : Word) : BitVec 4 := w.extractLsb' 12 4

/-- `x = w[11:8]`. -/
def xField (w : Word) : Reg := (w.extractLsb' 8 4).toFin

/-- `y = w[7:4]`. -/
def yField (w : Word) : Reg := (w.extractLsb' 4 4).toFin

/-- `n = w[3:0]`. -/
def nField (w : Word) : Nibble := w.extractLsb' 0 4

/-- `kk = w[7:0]`. -/
def kkField (w : Word) : Byte := w.extractLsb' 0 8

/-- `nnn = w[11:0]`. -/
def nnnField (w : Word) : Addr := w.extractLsb' 0 12

/-- Family 0, matched on the whole word, on its top 12 bits for `SCD` (30_encoding.md R76). -/
def decodeFamily0 (w : Word) : Option Instr :=
  if w.extractLsb' 4 12 = 0x00C#12 then some (.scdN (nField w))
  else if w = 0x00E0#16 then some .cls
  else if w = 0x00EE#16 then some .ret
  else if w = 0x00FB#16 then some .scr
  else if w = 0x00FC#16 then some .scl
  else if w = 0x00FD#16 then some .exit
  else if w = 0x00FE#16 then some .low
  else if w = 0x00FF#16 then some .high
  else none

/-- Family 8, sub-selected by the low nibble. -/
def decodeFamily8 (x y : Reg) (n : Nibble) : Option Instr :=
  if n = 0x0#4 then some (.ldVxVy x y)
  else if n = 0x1#4 then some (.orVxVy x y)
  else if n = 0x2#4 then some (.andVxVy x y)
  else if n = 0x3#4 then some (.xorVxVy x y)
  else if n = 0x4#4 then some (.addVxVy x y)
  else if n = 0x5#4 then some (.subVxVy x y)
  else if n = 0x6#4 then some (.shrVxVy x y)
  else if n = 0x7#4 then some (.subnVxVy x y)
  else if n = 0xE#4 then some (.shlVxVy x y)
  else none

/-- Family D: `Dxy0` is the extended draw (30_encoding.md R78). -/
def decodeFamilyD (x y : Reg) (n : Nibble) : Option Instr :=
  if n = 0#4 then some (.drwVxVy0 x y) else some (.drwVxVyN x y n)

/-- Family E, sub-selected by the low byte. -/
def decodeFamilyE (x : Reg) (kk : Byte) : Option Instr :=
  if kk = 0x9E#8 then some (.skpVx x)
  else if kk = 0xA1#8 then some (.sknpVx x)
  else none

/-- Family F, sub-selected by the low byte. -/
def decodeFamilyF (x : Reg) (kk : Byte) : Option Instr :=
  if kk = 0x07#8 then some (.ldVxDt x)
  else if kk = 0x0A#8 then some (.ldVxK x)
  else if kk = 0x15#8 then some (.ldDtVx x)
  else if kk = 0x18#8 then some (.ldStVx x)
  else if kk = 0x1E#8 then some (.addIVx x)
  else if kk = 0x29#8 then some (.ldFVx x)
  else if kk = 0x33#8 then some (.ldBVx x)
  else if kk = 0x55#8 then some (.ldMemVx x)
  else if kk = 0x65#8 then some (.ldVxMem x)
  else if kk = 0x75#8 then some (.ldRVx x)
  else if kk = 0x85#8 then some (.ldVxR x)
  else none

/-- The row a word matches, if any (30_encoding.md R74): the first nibble selects the family. -/
def decodeRow (w : Word) : Option Instr :=
  let op := opField w
  if op = 0x0#4 then decodeFamily0 w
  else if op = 0x1#4 then some (.jpNnn (nnnField w))
  else if op = 0x2#4 then some (.callNnn (nnnField w))
  else if op = 0x3#4 then some (.seVxKk (xField w) (kkField w))
  else if op = 0x4#4 then some (.sneVxKk (xField w) (kkField w))
  else if op = 0x5#4 then some (.seVxVy (xField w) (yField w))
  else if op = 0x6#4 then some (.ldVxKk (xField w) (kkField w))
  else if op = 0x7#4 then some (.addVxKk (xField w) (kkField w))
  else if op = 0x8#4 then decodeFamily8 (xField w) (yField w) (nField w)
  else if op = 0x9#4 then some (.sneVxVy (xField w) (yField w))
  else if op = 0xA#4 then some (.ldINnn (nnnField w))
  else if op = 0xB#4 then some (.jpV0Nnn (nnnField w))
  else if op = 0xC#4 then some (.rndVxKk (xField w) (kkField w))
  else if op = 0xD#4 then decodeFamilyD (xField w) (yField w) (nField w)
  else if op = 0xE#4 then decodeFamilyE (xField w) (kkField w)
  else decodeFamilyF (xField w) (kkField w)

/-- `Decode` (30_encoding.md R70): total on all words, exactly one instruction or a decode failure
carrying the word. -/
def decodeWord (w : Word) : Except DecodeError Instr :=
  match decodeRow w with
  | some i => .ok i
  | none => .error (.decodeFailure w)

/-- The word of two consecutive bytes: the byte at the lower address is the high byte
(20_memory.md R52, decision D6). -/
def wordOfBytes (hi lo : Byte) : Word := hi ++ lo

/-- The two bytes of a word, in the order of their addresses. -/
def bytesOfWord (w : Word) : List Byte := [w.extractLsb' 8 8, w.extractLsb' 0 8]

/-- Decoding on any bytes: the instruction the first two make, and the bytes after them. -/
def decodeBytes : List Byte → Except DecodeError (Instr × List Byte)
  | hi :: lo :: rest =>
    match decodeWord (wordOfBytes hi lo) with
    | .ok i => .ok (i, rest)
    | .error e => .error e
  | _ => .error .truncated

/-- Format `NNN`: `o n n n` (30_encoding.md R72). -/
def formNnn (op : BitVec 4) (nnn : Addr) : Word := op ++ nnn

/-- Format `XKK`: `o x k k`; format `X` is this with a fixed low byte. -/
def formXkk (op : BitVec 4) (x : Reg) (kk : Byte) : Word := op ++ (BitVec.ofFin x : BitVec 4) ++ kk

/-- Formats `XYN` and `XY`: `o x y n`. -/
def formXyn (op : BitVec 4) (x y : Reg) (n : Nibble) : Word :=
  op ++ (BitVec.ofFin x : BitVec 4) ++ (BitVec.ofFin y : BitVec 4) ++ n

/-- The word of an instruction (30_encoding.md R74); the ignored nibble of `5xy-` and `9xy-` is 0, the
canonical form (R77). -/
def encode : Instr → Word
  | .scdN n => 0x00C#12 ++ n
  | .cls => 0x00E0#16
  | .ret => 0x00EE#16
  | .scr => 0x00FB#16
  | .scl => 0x00FC#16
  | .exit => 0x00FD#16
  | .low => 0x00FE#16
  | .high => 0x00FF#16
  | .jpNnn nnn => formNnn 0x1 nnn
  | .callNnn nnn => formNnn 0x2 nnn
  | .seVxKk x kk => formXkk 0x3 x kk
  | .sneVxKk x kk => formXkk 0x4 x kk
  | .seVxVy x y => formXyn 0x5 x y 0x0
  | .ldVxKk x kk => formXkk 0x6 x kk
  | .addVxKk x kk => formXkk 0x7 x kk
  | .ldVxVy x y => formXyn 0x8 x y 0x0
  | .orVxVy x y => formXyn 0x8 x y 0x1
  | .andVxVy x y => formXyn 0x8 x y 0x2
  | .xorVxVy x y => formXyn 0x8 x y 0x3
  | .addVxVy x y => formXyn 0x8 x y 0x4
  | .subVxVy x y => formXyn 0x8 x y 0x5
  | .shrVxVy x y => formXyn 0x8 x y 0x6
  | .subnVxVy x y => formXyn 0x8 x y 0x7
  | .shlVxVy x y => formXyn 0x8 x y 0xE
  | .sneVxVy x y => formXyn 0x9 x y 0x0
  | .ldINnn nnn => formNnn 0xA nnn
  | .jpV0Nnn nnn => formNnn 0xB nnn
  | .rndVxKk x kk => formXkk 0xC x kk
  | .drwVxVy0 x y => formXyn 0xD x y 0x0
  | .drwVxVyN x y n => formXyn 0xD x y n
  | .skpVx x => formXkk 0xE x 0x9E
  | .sknpVx x => formXkk 0xE x 0xA1
  | .ldVxDt x => formXkk 0xF x 0x07
  | .ldVxK x => formXkk 0xF x 0x0A
  | .ldDtVx x => formXkk 0xF x 0x15
  | .ldStVx x => formXkk 0xF x 0x18
  | .addIVx x => formXkk 0xF x 0x1E
  | .ldFVx x => formXkk 0xF x 0x29
  | .ldBVx x => formXkk 0xF x 0x33
  | .ldMemVx x => formXkk 0xF x 0x55
  | .ldVxMem x => formXkk 0xF x 0x65
  | .ldRVx x => formXkk 0xF x 0x75
  | .ldVxR x => formXkk 0xF x 0x85

/-- The bytes of an instruction as they stand in memory. -/
def encodeBytes (i : Instr) : List Byte := bytesOfWord (encode i)

/-- The word of a table row's bits: the table numbers bit 0 as the least significant bit of the one
16-bit word; bits from `nbits` up are 0. -/
def tableWord (nbits w : Nat) : Word := BitVec.ofNat 16 (w % 2 ^ nbits)

/-- What the decoder reads from an instruction whose bits are `w`, laid out as memory holds it. -/
def decodeTableWord (nbits w : Nat) : Option Instr :=
  match decodeBytes (bytesOfWord (tableWord nbits w)) with
  | .ok (i, _) => some i
  | .error _ => none

end Sys2Proof
end

