-- ==== Sys2Proof/Config.lean ====
section
/-! DEFINITION. What is fixed for the machine (00_scope.md R5, R7), what its host chooses
(00_scope.md R6, 10_state.md R40, R42), and the one free value: the host's moves. -/

namespace Sys2Proof

/-- The configuration inputs of 00_scope.md R6, "consumed at construction, not re-read at runtime". -/
structure Settings where
  /-- `SHIFT_QUIRK`: read only by the two shifts (42_alu.md R139, R141). -/
  shiftQuirk : Bool
  /-- `CLOCK_KHZ`: no rule of the state transition reads it (70_reset_and_hazards.md R241). DESIGN CHOICE,
  safe, log entry 20: the spec gives no type or range, the model takes a whole number of kHz. -/
  clockKhz : Nat
  deriving DecidableEq, Repr, Inhabited

/-- The input ports, sampled once at the start of each tick (10_state.md R40). -/
structure Inputs where
  keysValid : Bool
  keys      : BitVec 16
  resetReq  : Bool
  execDue   : Bool
  timerDue  : Bool
  rnd       : Byte
  deriving DecidableEq, Repr, Inhabited

/-- The three operations the host applies to the block (10_state.md R42). -/
inductive HostCmd where
  | tick
  | reset
  | load (bytes : List Byte)
  deriving DecidableEq, Repr, Inhabited

/-- One move of the host: the operation, the input ports during it, and the settings the host changes
to if the move resets the block (70_reset_and_hazards.md R232; `none` keeps them). -/
structure HostMove where
  cmd      : HostCmd
  inputs   : Inputs
  settings : Option Settings
  deriving DecidableEq, Repr, Inhabited

namespace Config

/-- `MEM_SIZE` (00_scope.md R5). -/
def memSize : Nat := 4096

/-- `PROG_BASE` (00_scope.md R5): where programs are loaded and where reset sets `PC`. -/
def progBase : Nat := 0x200

/-- The longest program `Load` stores whole (70_reset_and_hazards.md R233). -/
def maxProgram : Nat := memSize - progBase

/-- `FONT_BASE` (00_scope.md R7, decision D16): the spec's default of an open parameter. -/
def fontBase : Nat := 0x000

/-- `FONT` (20_memory.md R56, decision D16): the spec's default of an open parameter, 5 bytes a digit. -/
def font : List Byte :=
  [0xF0, 0x90, 0x90, 0x90, 0xF0,  0x20, 0x60, 0x20, 0x20, 0x70,
   0xF0, 0x10, 0xF0, 0x80, 0xF0,  0xF0, 0x10, 0xF0, 0x10, 0xF0,
   0x90, 0x90, 0xF0, 0x10, 0x10,  0xF0, 0x80, 0xF0, 0x10, 0xF0] ++
  [0xF0, 0x80, 0xF0, 0x90, 0xF0,  0xF0, 0x10, 0x20, 0x40, 0x40,
   0xF0, 0x90, 0xF0, 0x90, 0xF0,  0xF0, 0x90, 0xF0, 0x10, 0xF0,
   0xF0, 0x90, 0xF0, 0x90, 0x90,  0xE0, 0x90, 0xE0, 0x90, 0xE0] ++
  [0xF0, 0x80, 0x80, 0x80, 0xF0,  0xE0, 0x90, 0x90, 0x90, 0xE0,
   0xF0, 0x80, 0xF0, 0x80, 0xF0,  0xF0, 0x80, 0xF0, 0x80, 0x80]

/-- Rows of a glyph (20_memory.md R56). -/
def glyphSize : Nat := 5

/-- `STACK_SLOTS_USABLE` (00_scope.md R7, decision D9). -/
def stackSlotsUsable : Nat := 15

/-- The free value: the host's move number `n`, once the moves listed in the state are used up.
Nothing is known of it, so nothing can be proved that holds for some hosts only
(70_reset_and_hazards.md R237, R241, R242; 45_keyboard_timers_random.md R177). Log entry 1. -/
opaque hostMove (n : Nat) : HostMove

end Config

end Sys2Proof
end

