-- ==== Sys2Proof/Machine/State.lean ====
section
/-! DEFINITION. The state of the machine, as plain data: every element of 10_state.md (R36), the
configuration, and the model's own record of what the host does next. -/

namespace Sys2Proof.Machine

/-- `WAIT` (10_state.md R30): normal execution, waiting for any key, waiting for the latched key to go
up; `r` is the target register. -/
inductive WaitState where
  | resume
  | halt (r : Reg)
  | waitForRelease (r : Reg)
  deriving DecidableEq, Repr

/-- What an out-of-range access was for (60_exceptions.md R201, `AddressFault`). -/
inductive Access where
  | fetch
  | data
  deriving DecidableEq, Repr

/-- The fatal faults of 60_exceptions.md R201, each with its `info`. -/
inductive FatalCause where
  /-- the word that matches no row -/
  | decodeFailure (w : Word)
  /-- the highest address the access would have touched, not wrapped (20_memory.md R52, R53) -/
  | addressFault (access : Access) (addr : Nat)
  | stackOverflow
  | stackUnderflow
  /-- the value of `V[x]` -/
  | keyIndexFault (v : Byte)
  deriving DecidableEq, Repr

/-- The record `FAULT` holds (10_state.md R33): the cause and the address of the instruction. -/
structure FaultRecord where
  cause : FatalCause
  pc    : Word
  deriving DecidableEq, Repr

/-- What `REPORT` holds (10_state.md R34). -/
inductive Report where
  | notImplemented (w : Word)
  deriving DecidableEq, Repr

/-- What `load_report` holds (10_state.md R41, 70_reset_and_hazards.md R233). -/
inductive LoadReport where
  | loadTruncated
  deriving DecidableEq, Repr

/-- Why the model's step stops where the block would be in a state the spec says it never is in.
The spec's own fatal faults are none of these: they are latched in `State.fault`. -/
inductive Fault where
  /-- Raised by the wait step of a tick in `WaitForRelease(r)` when `V[r]` is above 15, so that there is
  no key flag to read; no run reaches such a state (45_keyboard_timers_random.md R172). Safe: the
  machine stops, nothing is invented. Log entry 5. -/
  | latchedKeyOutOfRange (r : Reg) (v : Byte)
  deriving DecidableEq, Repr

/-- Moves the model has no meaning for. -/
inductive Refusal where
  /-- Raised by an arm of `exec` for an instruction that has no meaning yet; safe. No arm does. -/
  | notModelled (mnemonic : String)
  /-- Raised by the host's `Load` outside the window between a reset and the first move after it, which
  the spec says a model should refuse (70_reset_and_hazards.md R234, 93 U11); safe. Log entry 8. -/
  | loadOutsideWindow
  deriving DecidableEq, Repr

/-- Main memory as the bytes that differ from their reset value, in canonical form: see `Memory.wf`. -/
abbrev Memory := List Host.Cell

structure State where
  /-- `V[0]` .. `V[15]` (R20); `V[15]` is the flag register (R21) -/
  regs       : Vector Byte 16
  /-- `I` (R22) -/
  i          : Word
  /-- `PC` (R23) -/
  pc         : Word
  /-- `SP` (R25) -/
  sp         : BitVec 4
  /-- `STACK[0]` .. `STACK[15]` (R24) -/
  stack      : Vector Word 16
  /-- `DT` (R26) -/
  dt         : Byte
  /-- `ST` (R27) -/
  st         : Byte
  /-- `FB[row][col]` (R28): 32 rows of 64 pixels -/
  fb         : Vector (Vector Bool 64) 32
  /-- `KEYS[0]` .. `KEYS[15]` (R29) -/
  keys       : Vector Bool 16
  /-- `WAIT` (R30) -/
  wait       : WaitState
  /-- `JF` (R31) -/
  jf         : Bool
  /-- `DF` (R32) -/
  df         : Bool
  /-- `FAULT` (R33), also the output `fault_out` -/
  fault      : Option FaultRecord
  /-- `REPORT` (R34), also the output `report_out` -/
  report     : Option Report
  /-- `MEM` (R35) -/
  mem        : Memory
  /-- the output `present` (R41) -/
  present    : Bool
  /-- the output `tone` (R41) -/
  tone       : Bool
  /-- the output `load_report` (R41) -/
  loadReport : Option LoadReport
  /-- the configuration (00_scope.md R6), changed only together with a reset -/
  settings   : Settings
  /-- the model's own: no move since the last reset, so that `Load` is defined (log entry 8) -/
  loadOpen   : Bool
  /-- the model's own: the host's next move, with the inputs of that tick (log entry 2) -/
  pending    : HostMove
  /-- the model's own: the host's moves after the next one (log entry 2) -/
  feed       : List HostMove
  /-- the model's own: how many moves were made, the argument of `Config.hostMove` (log entry 1) -/
  moves      : Nat
  deriving DecidableEq, Repr

/-- The settings `State.reset` starts from: the spec gives neither a default (00_scope.md R6). DESIGN
CHOICE, unsafe, log entry 3: no statement rests on it. -/
def defaultSettings : Settings := { shiftQuirk := false, clockKhz := 1 }

/-- The first move `State.reset` has pending: a tick under the input convention of
95_test_vectors.md. DESIGN CHOICE, unsafe, log entry 2: no statement rests on it. -/
def firstMove : HostMove :=
  { cmd := .tick
    inputs := { keysValid := true, keys := 0, resetReq := false, execDue := true, timerDue := false, rnd := 0 }
    settings := none }

/-- The block right after `Reset` (70_reset_and_hazards.md R230), under given settings and with given
host moves ahead. Memory lists nothing: every byte has its reset value. -/
def State.resetWith (settings : Settings) (pending : HostMove) (feed : List HostMove) (moves : Nat) : State :=
  { regs := Vector.replicate 16 0
    i := 0
    pc := BitVec.ofNat 16 Config.progBase
    sp := 0
    stack := Vector.replicate 16 0
    dt := 0
    st := 0
    fb := Vector.replicate 32 (Vector.replicate 64 false)
    keys := Vector.replicate 16 false
    wait := .resume
    jf := false
    df := false
    fault := none
    report := none
    mem := []
    present := false
    tone := false
    loadReport := none
    settings := settings
    loadOpen := true
    pending := pending
    feed := feed
    moves := moves }

/-- The machine right after reset (70_reset_and_hazards.md R230, 10_state.md R36). -/
def State.reset : State := State.resetWith defaultSettings firstMove [] 0

end Sys2Proof.Machine
end

