-- ==== Sys2Proof/Machine/Ops.lean ====
section
/-! DEFINITION. The named operations over memory, registers, stack, framebuffer and `PC`, and raising a
fatal fault: the one place each piece of state is read or written. -/

namespace Sys2Proof.Machine

/-- What executing an instruction, a tick or a move answers. -/
abbrev Result := Host.Outcome State Fault Refusal

/-- Go on with `f` where a next state was answered. -/
def andThen (r : Result) (f : State → Result) : Result :=
  match r with
  | .next s => f s
  | .fault e => .fault e
  | .refused e => .refused e

/-! ### Memory (20_memory.md) -/

/-- The reset value of a byte: the font from `FONT_BASE`, zero elsewhere (10_state.md R36). -/
def Memory.resetByte (a : Nat) : Byte :=
  if Config.fontBase ≤ a then Config.font.getD (a - Config.fontBase) 0 else 0

/-- `MEM[a]`: the listed byte, else the reset value. -/
def Memory.read : Memory → Nat → Byte
  | [], a => Memory.resetByte a
  | c :: rest, a => if c.1 = a then c.2 else Memory.read rest a

/-- Put a byte at its place in the rising order of addresses. -/
def Memory.insert : Memory → Nat → Byte → Memory
  | [], a, b => [(a, b)]
  | c :: rest, a, b => if a < c.1 then (a, b) :: c :: rest else c :: Memory.insert rest a b

/-- `MEM[a] <- b`, in canonical form: the reset value is not listed. -/
def Memory.write (m : Memory) (a : Nat) (b : Byte) : Memory :=
  let m' := m.filter (fun c => c.1 ≠ a)
  if b = Memory.resetByte a then m' else Memory.insert m' a b

/-- `MemWrite(addr, n, bytes)` (00_scope.md R10), after the range check. -/
def Memory.writeBytes : Memory → Nat → List Byte → Memory
  | m, _, [] => m
  | m, a, b :: bs => Memory.writeBytes (Memory.write m a b) (a + 1) bs

/-- The canonical form: addresses strictly rising and inside the space, no byte at its reset value. -/
abbrev Memory.wf (m : Memory) : Prop :=
  m.Pairwise (fun c d => c.1 < d.1) ∧ ∀ c ∈ m, c.1 < Config.memSize ∧ c.2 ≠ Memory.resetByte c.1

/-- `MEM[a]`. -/
def State.byteAt (s : State) (a : Nat) : Byte := s.mem.read a

/-- `MEM[a] <- b`. -/
def State.setByte (s : State) (a : Nat) (b : Byte) : State := { s with mem := s.mem.write a b }

/-! ### General registers (10_state.md R20, R21) -/

/-- The flag register, `V[15]`. -/
def vF : Reg := 15

/-- `V[x]`. -/
def State.v (s : State) (x : Reg) : Byte := s.regs.get x

/-- `V[x] <- b`. -/
def State.setV (s : State) (x : Reg) (b : Byte) : State :=
  { s with regs := s.regs.set x.val b x.isLt }

/-! ### Call stack (10_state.md R24, R25) -/

/-- `STACK[k]`. -/
def State.stackAt (s : State) (k : BitVec 4) : Word := s.stack.get k.toFin

/-- `SP <- SP + 1` and then `STACK[SP] <- w` (41_control_transfer.md R112). -/
def State.push (s : State) (w : Word) : State :=
  { s with sp := s.sp + 1
           stack := s.stack.set (s.sp + 1).toNat w (s.sp + 1).isLt }

/-! ### Framebuffer and keypad (10_state.md R28, R29) -/

/-- `FB[row][col]`. -/
def State.pixel (s : State) (row : Fin 32) (col : Fin 64) : Bool := (s.fb.get row).get col

/-- `FB[row][col] <- p`. -/
def State.setPixel (s : State) (row : Fin 32) (col : Fin 64) (p : Bool) : State :=
  { s with fb := s.fb.set row.val ((s.fb.get row).set col.val p col.isLt) row.isLt }

/-- Every pixel 0 (44_display.md R160). -/
def State.clearScreen (s : State) : State :=
  { s with fb := Vector.replicate 32 (Vector.replicate 64 false) }

/-- `KEYS[k]`. -/
def State.keyDown (s : State) (k : Fin 16) : Bool := s.keys.get k

/-- The smallest code of a key that is down, if any key is (40_instruction_cycle.md R97). -/
def State.lowestKey (s : State) : Option (Fin 16) :=
  (List.finRange 16).find? (fun k => s.keyDown k)

/-! ### The program counter (10_state.md R23, 40_instruction_cycle.md R95) -/

/-- Reduce a program counter modulo the memory size. -/
def wrapPc (n : Nat) : Word := BitVec.ofNat 16 (n % Config.memSize)

/-- The advance step: 2 more unless `JF`, then modulo 4096. -/
def State.advance (s : State) : State :=
  if s.jf then { s with pc := wrapPc s.pc.toNat } else { s with pc := wrapPc (s.pc.toNat + 2) }

/-- The end of an instruction that faulted nowhere: `JF` as it leaves it (0 since before the fetch, R93,
unless the instruction is of the jump class, 41_control_transfer.md R110), then the advance. -/
def State.retire (s : State) (jump : Bool) : State := ({ s with jf := jump }).advance

/-- `PC <- target` of a jump-class instruction, with its `JF <- 1` and the advance. -/
def State.jumpTo (s : State) (target : Word) : State := ({ s with pc := target }).retire true

/-- A skip-class instruction: `PC <- PC + 2` when the predicate holds, then the advance as well. -/
def State.skipIf (s : State) (c : Bool) : State :=
  (if c then { s with pc := s.pc + 2 } else s).retire false

/-! ### Exceptional events (60_exceptions.md) -/

/-- `raise` (60_exceptions.md R204): latch the cause with the address of the instruction, change
nothing else. The one entry of every fatal fault; there is no return but a reset (R210). -/
def State.raise (s : State) (c : FatalCause) : State := { s with fault := some { cause := c, pc := s.pc } }

/-- `report NotImplemented(w)` (60_exceptions.md R206). -/
def State.reportNotImplemented (s : State) (w : Word) : State :=
  { s with report := some (.notImplemented w) }

/-- The code of a fatal fault on `fault_out` (60_exceptions.md R201, decision D26). -/
def FatalCause.code : FatalCause → Nat
  | .decodeFailure _ => 1
  | .addressFault _ _ => 3
  | .stackOverflow => 4
  | .stackUnderflow => 5
  | .keyIndexFault _ => 6

/-- The code of a report on `report_out` (60_exceptions.md R201). -/
def Report.code : Report → Nat
  | .notImplemented _ => 2

/-- The code of a report on `load_report` (60_exceptions.md R201). -/
def LoadReport.code : LoadReport → Nat
  | .loadTruncated => 7

end Sys2Proof.Machine
end

