-- ==== Sys2Proof/Machine/Operands.lean ====
section
/-! DEFINITION. The operand forms: the immediates widened, the range of a data access through `I`, the
registers of a block transfer, the key a register names, the operand of a shift. -/

namespace Sys2Proof.Machine

/-- `zext_16(nnn)` (30_encoding.md R73). -/
def addrOperand (nnn : Addr) : Word := nnn.setWidth 16

/-- `zext_16(V[x])`. -/
def State.wideV (s : State) (x : Reg) : Word := (s.v x).setWidth 16

/-- `I + n - 1`, the highest address of an access of `n` bytes through `I`, on unbounded integers
(20_memory.md R53); `n` is at least 1 in every access. -/
def State.lastByte (s : State) (n : Nat) : Nat := s.i.toNat + n - 1

/-- The range check of every data access (20_memory.md R53): go on, or raise before anything changes. -/
def State.withData (s : State) (n : Nat) (go : State) : Result :=
  if s.lastByte n > Config.memSize - 1 then .next (s.raise (.addressFault .data (s.lastByte n))) else .next go

/-- `k in 0 .. x`: the registers of a block transfer, in order (43_memory_index.md R154). -/
def regsThrough (x : Reg) : List Reg := (List.finRange 16).filter (fun k => k ≤ x)

/-- The key whose code is `b`, if `b` is the code of a key (41_control_transfer.md R120). -/
def keyOf (b : Byte) : Option (Fin 16) := if h : b.toNat < 16 then some (Fin.mk b.toNat h) else none

/-- The value a shift shifts: `V[y]` copied over `V[x]` unless `SHIFT_QUIRK` (42_alu.md R139). -/
def State.shiftOperand (s : State) (x y : Reg) : Byte := if s.settings.shiftQuirk then s.v x else s.v y

/-- `n` bytes from `a` on (00_scope.md R10, `MemRead`), after the range check. -/
def State.bytesAt (s : State) (a : Nat) (n : Nat) : List Byte := (List.range n).map (fun k => s.byteAt (a + k))

/-- The three decimal digits of a byte, hundreds first (43_memory_index.md R153). -/
def bcdDigits (b : Byte) : List Byte :=
  [BitVec.ofNat 8 (b.toNat / 100), BitVec.ofNat 8 (b.toNat / 10 % 10), BitVec.ofNat 8 (b.toNat % 10)]

end Sys2Proof.Machine
end

