-- ==== Sys2Proof/Machine/Cycle.lean ====
section
/-! DEFINITION. The parts of a tick around the instruction (40_instruction_cycle.md), reset and load
(70_reset_and_hazards.md), and the host's next move. -/

namespace Sys2Proof.Machine

/-- Fetch (20_memory.md R52): the word at `PC`, big-endian, or the cause of the fault. -/
def State.fetch (s : State) : Except FatalCause Word :=
  if s.pc.toNat + 1 > Config.memSize - 1 then .error (.addressFault .fetch (s.pc.toNat + 1))
  else .ok (wordOfBytes (s.byteAt s.pc.toNat) (s.byteAt (s.pc.toNat + 1)))

/-- Step 1 (R91): all 16 flags at once, if the sample is valid. -/
def State.sampleKeys (s : State) : State :=
  if s.pending.inputs.keysValid then
    { s with keys := Vector.ofFn (fun k : Fin 16 => s.pending.inputs.keys.getLsbD k.val) }
  else s

/-- The start of a tick that a latched fault does not suppress (R90): `REPORT` and `present` cleared,
the keys sampled, the load window closed. -/
def State.beginTick (s : State) : State :=
  ({ s with report := none, present := false, loadOpen := false }).sampleKeys

/-- The execute gate (R92). -/
def State.gateOpen (s : State) : Bool := s.wait = .resume && s.pending.inputs.execDue

/-- Step 3 (R97; 45_keyboard_timers_random.md R171, R172). -/
def State.waitStep (s : State) : Result :=
  match s.wait with
  | .resume => .next s
  | .halt r =>
    match s.lowestKey with
    | none => .next s
    | some k => .next { s.setV r (BitVec.ofNat 8 k.val) with wait := .waitForRelease r }
  | .waitForRelease r =>
    match keyOf (s.v r) with
    | none => .fault (.latchedKeyOutOfRange r (s.v r))
    | some k => if s.keyDown k then .next s else .next { s with wait := .resume }

/-- One decrement, never below zero (R98). -/
def countDown (t : Byte) : Byte := if t = 0 then 0 else t - 1

/-- Step 4 (R98). -/
def State.timerStep (s : State) : State :=
  if s.pending.inputs.timerDue then { s with dt := countDown s.dt, st := countDown s.st } else s

/-- Step 5 (R99). -/
def State.presentStep (s : State) : State := { s with present := s.df, df := false }

/-- Step 6 (R100). -/
def State.toneStep (s : State) : State := { s with tone := s.st ≠ 0 }

/-- Steps 4 to 6. -/
def State.endTick (s : State) : State := s.timerStep.presentStep.toneStep

/-- Steps 3 to 6 (R90). -/
def State.afterExecute (s : State) : Result := andThen s.waitStep (fun t => .next t.endTick)

/-- `Reset` (70_reset_and_hazards.md R230): every element its reset value; the settings stay unless the
host changes them with this move (R232). -/
def State.doReset (s : State) : State :=
  State.resetWith (s.pending.settings.getD s.settings) s.pending s.feed s.moves

/-- `Load(bytes)` (70_reset_and_hazards.md R233). -/
def State.doLoad (s : State) (bytes : List Byte) : State :=
  { s with mem := s.mem.writeBytes Config.progBase (bytes.take Config.maxProgram)
           loadReport := if bytes.length > Config.maxProgram then some .loadTruncated else none
           loadOpen := false }

/-- The move is made: take the next of the host's moves, a listed one or the free one (log entry 1). -/
def State.takeNextMove (s : State) : State :=
  match s.feed with
  | [] => { s with pending := Config.hostMove s.moves, moves := s.moves + 1 }
  | m :: rest => { s with pending := m, feed := rest, moves := s.moves + 1 }

/-- The state changed only as far as the very next step must execute the instruction at `PC`: the host
ticks with `exec_due` and without `reset_req`, no wait, no latched fault, and a `PC` at which a word can
be fetched (log entry 9). -/
def State.readyToExecute (s : State) : State :=
  { s with
    pending := { s.pending with
      cmd := .tick
      inputs := { s.pending.inputs with execDue := true, resetReq := false } }
    fault := none
    wait := .resume
    pc := if s.pc.toNat + 1 > Config.memSize - 1 then BitVec.ofNat 16 Config.progBase else s.pc }

/-- A table row's word stored at `PC`, high byte first. -/
def State.storeWord (s : State) (w : Word) : State :=
  { s with mem := s.mem.writeBytes s.pc.toNat (bytesOfWord w) }

end Sys2Proof.Machine
end

