-- ==== Sys2Proof/Machine/Flags.lean ====
section
/-! DEFINITION. The flag computations, all from the operands before any write (42_alu.md R130), and the
two orders in which a flag-writing instruction of the ALU writes. -/

namespace Sys2Proof.Machine

/-- A flag value, 0 or 1. -/
def flagByte (c : Bool) : Byte := if c then 1 else 0

/-- The carry-out of an unsigned add (42_alu.md R137). -/
def carryOut (a b : Byte) : Byte := flagByte (a.toNat + b.toNat > 255)

/-- Not-borrow of `a - b`: 1 when `a >= b` (42_alu.md R138, R140). -/
def notBorrow (a b : Byte) : Byte := flagByte (a.toNat ≥ b.toNat)

/-- The bit a right shift by one shifts out (42_alu.md R139). -/
def shiftedOutRight (b : Byte) : Byte := flagByte (b.getLsbD 0)

/-- The bit a left shift by one shifts out (42_alu.md R141). -/
def shiftedOutLeft (b : Byte) : Byte := flagByte (b.getLsbD 7)

/-- Result, then flag: the flag is written last, so it survives in `V[15]` (42_alu.md R130 b). -/
def State.setResultThenFlag (s : State) (x : Reg) (result flag : Byte) : State :=
  (s.setV x result).setV vF flag

/-- Zero the flag register, then read both operands and write the result (42_alu.md R130 a). -/
def State.zeroFlagThenCombine (s : State) (x y : Reg) (op : Byte → Byte → Byte) : State :=
  let z := s.setV vF 0
  z.setV x (op (z.v x) (z.v y))

end Sys2Proof.Machine
end

