-- ==== Sys2Proof/Machine/Alu.lean ====
section
/-! DEFINITION. Register loads, arithmetic, logic and shifts (42_alu.md). -/

namespace Sys2Proof.Machine

/-- R131. -/
def execLdVxKk (x : Reg) (kk : Byte) (s : State) : Result := .next ((s.setV x kk).retire false)

/-- R132. The carry is discarded; `VF` is not written. -/
def execAddVxKk (x : Reg) (kk : Byte) (s : State) : Result := .next ((s.setV x (s.v x + kk)).retire false)

/-- R133. -/
def execLdVxVy (x y : Reg) (s : State) : Result := .next ((s.setV x (s.v y)).retire false)

/-- R134. -/
def execOrVxVy (x y : Reg) (s : State) : Result :=
  .next ((s.zeroFlagThenCombine x y (fun a b => a ||| b)).retire false)

/-- R135. -/
def execAndVxVy (x y : Reg) (s : State) : Result :=
  .next ((s.zeroFlagThenCombine x y (fun a b => a &&& b)).retire false)

/-- R136. -/
def execXorVxVy (x y : Reg) (s : State) : Result :=
  .next ((s.zeroFlagThenCombine x y (fun a b => a ^^^ b)).retire false)

/-- R137. -/
def execAddVxVy (x y : Reg) (s : State) : Result :=
  .next ((s.setResultThenFlag x (s.v x + s.v y) (carryOut (s.v x) (s.v y))).retire false)

/-- R138. -/
def execSubVxVy (x y : Reg) (s : State) : Result :=
  .next ((s.setResultThenFlag x (s.v x - s.v y) (notBorrow (s.v x) (s.v y))).retire false)

/-- R139. Without the quirk the copy of `V[y]` into `V[x]` is overwritten by the result. -/
def execShrVxVy (x y : Reg) (s : State) : Result :=
  .next ((s.setResultThenFlag x (s.shiftOperand x y >>> 1) (shiftedOutRight (s.shiftOperand x y))).retire false)

/-- R140. -/
def execSubnVxVy (x y : Reg) (s : State) : Result :=
  .next ((s.setResultThenFlag x (s.v y - s.v x) (notBorrow (s.v y) (s.v x))).retire false)

/-- R141. -/
def execShlVxVy (x y : Reg) (s : State) : Result :=
  .next ((s.setResultThenFlag x (s.shiftOperand x y <<< 1) (shiftedOutLeft (s.shiftOperand x y))).retire false)

end Sys2Proof.Machine
end

