-- ==== Sys2Proof/Machine/ControlTransfer.lean ====
section
/-! DEFINITION. Control transfer (41_control_transfer.md). -/

namespace Sys2Proof.Machine

/-- R111. `JF` stays 0, so the advance adds 2 to the popped address. -/
def execRet (s : State) : Result :=
  if s.sp = 0 then .next (s.raise .stackUnderflow)
  else .next (({ s with pc := s.stackAt s.sp, sp := s.sp - 1 }).retire false)

/-- R112. The pushed value is the address of this `CALL`. -/
def execCallNnn (nnn : Addr) (s : State) : Result :=
  if s.sp.toNat = Config.stackSlotsUsable then .next (s.raise .stackOverflow)
  else .next ((s.push s.pc).jumpTo (addrOperand nnn))

/-- R113. -/
def execJpNnn (nnn : Addr) (s : State) : Result := .next (s.jumpTo (addrOperand nnn))

/-- R114. -/
def execJpV0Nnn (nnn : Addr) (s : State) : Result := .next (s.jumpTo (addrOperand nnn + s.wideV 0))

/-- R115. -/
def execSeVxKk (x : Reg) (kk : Byte) (s : State) : Result := .next (s.skipIf (s.v x = kk))

/-- R116. -/
def execSneVxKk (x : Reg) (kk : Byte) (s : State) : Result := .next (s.skipIf (s.v x ≠ kk))

/-- R117. -/
def execSeVxVy (x y : Reg) (s : State) : Result := .next (s.skipIf (s.v x = s.v y))

/-- R118. -/
def execSneVxVy (x y : Reg) (s : State) : Result := .next (s.skipIf (s.v x ≠ s.v y))

/-- R120. -/
def execSkpVx (x : Reg) (s : State) : Result :=
  match keyOf (s.v x) with
  | none => .next (s.raise (.keyIndexFault (s.v x)))
  | some k => .next (s.skipIf (s.keyDown k))

/-- R121. -/
def execSknpVx (x : Reg) (s : State) : Result :=
  match keyOf (s.v x) with
  | none => .next (s.raise (.keyIndexFault (s.v x)))
  | some k => .next (s.skipIf (!s.keyDown k))

end Sys2Proof.Machine
end

