-- ==== Sys2Proof/Machine/Display.lean ====
section
/-! DEFINITION. Clear and sprite draw (44_display.md). -/

namespace Sys2Proof.Machine

/-- R160. -/
def execCls (s : State) : Result := .next (({ s.clearScreen with df := true }).retire false)

/-- Column `c` of a sprite at `x0`, wrapped on its own (R161). -/
def wrapCol (n : Nat) : Fin 64 := Fin.ofNat 64 n

/-- Row `r` of a sprite at `y0`, wrapped on its own (R161). -/
def wrapRow (n : Nat) : Fin 32 := Fin.ofNat 32 n

/-- A set sprite bit: `VF <- 1` if the pixel was set, then the pixel is flipped (R161). -/
def State.flipPixel (s : State) (row : Fin 32) (col : Fin 64) : State :=
  (if s.pixel row col then s.setV vF 1 else s).setPixel row col (!s.pixel row col)

/-- One bit of a sprite row: bit 7 is the leftmost pixel (R161). -/
def State.drawBit (s : State) (x0 : Nat) (row : Fin 32) (b : Byte) (c : Nat) : State :=
  if b.getLsbD (7 - c) then s.flipPixel row (wrapCol (x0 + c)) else s

/-- Row `r` of the sprite: the byte at `I + r`, eight pixels (R161). -/
def State.drawRow (s : State) (x0 y0 : Nat) (r : Nat) : State :=
  (List.range 8).foldl
    (fun t c => t.drawBit x0 (wrapRow (y0 + r)) (s.byteAt (s.i.toNat + r)) c) s

/-- The blit: `n` rows at (`x0`, `y0`), after `VF <- 0` (R161). -/
def State.blit (s : State) (x0 y0 n : Nat) : State :=
  (List.range n).foldl (fun t r => t.drawRow x0 y0 r) (s.setV vF 0)

/-- R161. The coordinates are read before the flag register is zeroed. -/
def execDrwVxVyN (x y : Reg) (n : Nibble) (s : State) : Result :=
  s.withData n.toNat
    (({ s.blit ((s.v x).toNat % 64) ((s.v y).toNat % 32) n.toNat with df := true }).retire false)

end Sys2Proof.Machine
end

