-- ==== Sys2Proof/Machine/Extended.lean ====
section
/-! DEFINITION. The extended opcodes (46_extended.md): decodable, reported as not implemented, nothing
else changed but `PC`. -/

namespace Sys2Proof.Machine

/-- R180, for the instruction word `w`. -/
def State.notImplemented (s : State) (w : Word) : Result := .next ((s.reportNotImplemented w).retire false)

/-- R181. -/
def execScdN (n : Nibble) (s : State) : Result := s.notImplemented (encode (.scdN n))

/-- R182. -/
def execScr (s : State) : Result := s.notImplemented (encode .scr)

/-- R183. -/
def execScl (s : State) : Result := s.notImplemented (encode .scl)

/-- R184. It stops nothing. -/
def execExit (s : State) : Result := s.notImplemented (encode .exit)

/-- R185. -/
def execLow (s : State) : Result := s.notImplemented (encode .low)

/-- R186. -/
def execHigh (s : State) : Result := s.notImplemented (encode .high)

/-- R187. No memory is read, `VF`, `FB` and `DF` stay. -/
def execDrwVxVy0 (x y : Reg) (s : State) : Result := s.notImplemented (encode (.drwVxVy0 x y))

/-- R188. -/
def execLdRVx (x : Reg) (s : State) : Result := s.notImplemented (encode (.ldRVx x))

/-- R189. -/
def execLdVxR (x : Reg) (s : State) : Result := s.notImplemented (encode (.ldVxR x))

end Sys2Proof.Machine
end

