-- ==== Sys2Proof/Machine/IndexMemory.lean ====
section
/-! DEFINITION. The index register and the memory instructions (43_memory_index.md). -/

namespace Sys2Proof.Machine

/-- R150. -/
def execLdINnn (nnn : Addr) (s : State) : Result := .next (({ s with i := addrOperand nnn }).retire false)

/-- R151. Modulo 65536; `VF` is not written. -/
def execAddIVx (x : Reg) (s : State) : Result := .next (({ s with i := s.i + s.wideV x }).retire false)

/-- R152. `V[x]` is not masked. -/
def execLdFVx (x : Reg) (s : State) : Result :=
  .next (({ s with i := BitVec.ofNat 16 (Config.fontBase + Config.glyphSize * (s.v x).toNat) }).retire false)

/-- R153. `I` is not changed. -/
def execLdBVx (x : Reg) (s : State) : Result :=
  s.withData 3 (({ s with mem := s.mem.writeBytes s.i.toNat (bcdDigits (s.v x)) }).retire false)

/-- `MEM[I] <- V[k]; I <- I + 1`: one register of a dump (R154). -/
def State.dumpOne (s : State) (k : Reg) : State := { s.setByte s.i.toNat (s.v k) with i := s.i + 1 }

/-- `V[k] <- MEM[I]; I <- I + 1`: one register of a load (R155). -/
def State.fillOne (s : State) (k : Reg) : State := { s.setV k (s.byteAt s.i.toNat) with i := s.i + 1 }

/-- R154. -/
def execLdMemVx (x : Reg) (s : State) : Result :=
  s.withData (x.val + 1) (((regsThrough x).foldl State.dumpOne s).retire false)

/-- R155. -/
def execLdVxMem (x : Reg) (s : State) : Result :=
  s.withData (x.val + 1) (((regsThrough x).foldl State.fillOne s).retire false)

end Sys2Proof.Machine
end

