-- ==== Sys2Proof/Machine/KeyTimerRandom.lean ====
section
/-! DEFINITION. Key wait, timer moves, random (45_keyboard_timers_random.md). -/

namespace Sys2Proof.Machine

/-- R170. No register is written; the wait step of the tick goes on from here (R171, R172). -/
def execLdVxK (x : Reg) (s : State) : Result := .next (({ s with wait := .halt x }).retire false)

/-- R174. -/
def execLdVxDt (x : Reg) (s : State) : Result := .next ((s.setV x s.dt).retire false)

/-- R175. -/
def execLdDtVx (x : Reg) (s : State) : Result := .next (({ s with dt := s.v x }).retire false)

/-- R176. -/
def execLdStVx (x : Reg) (s : State) : Result := .next (({ s with st := s.v x }).retire false)

/-- R177. `rnd` is the input of this tick, free (log entry 1). -/
def execRndVxKk (x : Reg) (kk : Byte) (s : State) : Result :=
  .next ((s.setV x (s.pending.inputs.rnd &&& kk)).retire false)

end Sys2Proof.Machine
end

