-- ==== Sys2Proof/Machine/Tick.lean ====
section
/-! DEFINITION. One tick (40_instruction_cycle.md R90) and one move of the host. -/

namespace Sys2Proof.Machine

/-- R93: clear `JF`, fetch, decode, execute (the meanings end with the advance), each failure latched
in the order of 60_exceptions.md R208. -/
def executeOne (s : State) : Result :=
  let s := { s with jf := false }
  match s.fetch with
  | .error c => .next (s.raise c)
  | .ok w =>
    match decodeWord w with
    | .error _ => .next (s.raise (.decodeFailure w))
    | .ok i => exec i s

/-- Steps 3 to 6, unless the instruction latched a fault, which ends the tick (R101). -/
def finishTick (s : State) : Result := if s.fault.isSome then .next s else s.afterExecute

/-- `Tick` (R90): a reset request pre-empts it (R96), a latched fault suppresses it (R101). -/
def tick (s : State) : Result :=
  if s.pending.inputs.resetReq then .next s.doReset
  else if s.fault.isSome then .next s
  else if s.beginTick.gateOpen then andThen (executeOne s.beginTick) finishTick
  else s.beginTick.afterExecute

/-- One operation of the host (10_state.md R42): `Tick`, `Reset`, or `Load` in its window
(70_reset_and_hazards.md R234). -/
def hostOperation (s : State) : Result :=
  match s.pending.cmd with
  | .tick => tick s
  | .reset => .next s.doReset
  | .load bytes => if s.loadOpen then .next (s.doLoad bytes) else .refused .loadOutsideWindow

/-- The pending operation, and on to the next one. -/
def runMove (s : State) : Result := andThen (hostOperation s) (fun t => .next t.takeNextMove)

end Sys2Proof.Machine
end

