-- ==== Sys2Proof/Machine/Step.lean ====
section
/-! DEFINITION. The step of the machine: one move of its host. -/

namespace Sys2Proof.Machine

/-- One move of the host, most often a tick. -/
def step (s : State) : Host.Outcome State Fault Refusal := runMove s

/-- `s` with a table row's word where the very next step fetches and executes it (log entry 9). -/
def State.withFetchWord (s : State) (nbits w : Nat) : State :=
  s.readyToExecute.storeWord (tableWord nbits w)

end Sys2Proof.Machine
end

