-- ==== Sys2Proof/Safety.lean ====
section
/-! DEFINITION. The terms claims are stated in: what a correct run is (60_exceptions.md R204), the
invariants (10_state.md R37), and what "nothing else changes" means. -/

namespace Sys2Proof.Machine

/-- Not gone wrong: no fatal fault is latched (60_exceptions.md R204). -/
abbrev State.running (s : State) : Prop := s.fault = none

/-- Every byte of memory reads the same. -/
def SameMemory (s t : State) : Prop := ∀ a, t.byteAt a = s.byteAt a

/-- `PC` is two bytes further, modulo the memory size (40_instruction_cycle.md R95). -/
def AtNextInstr (s t : State) : Prop := t.pc.toNat = (s.pc.toNat + 2) % 4096

/-- Nothing but `PC` and the dead `JF` (10_state.md R31) differs; every byte of memory reads the same. -/
def ChangesPcOnly (s t : State) : Prop := t = { s with pc := t.pc, jf := t.jf } ∧ SameMemory s t

/-- Nothing but general registers, `PC` and `JF` differs, and of the registers only those `P` names. -/
def ChangesRegsOnly (s t : State) (P : Reg → Prop) : Prop :=
  t = { s with regs := t.regs, pc := t.pc, jf := t.jf } ∧ (∀ k, ¬ P k → t.v k = s.v k) ∧ SameMemory s t

/-- Nothing but `I`, `PC` and `JF` differs. -/
def ChangesIndexOnly (s t : State) : Prop := t = { s with i := t.i, pc := t.pc, jf := t.jf } ∧ SameMemory s t

/-- The state after `raise` (60_exceptions.md R204), written out: `FAULT` holds the cause and `PC`, and
that is the whole change. -/
def latched (s : State) (c : FatalCause) : State := { s with fault := some { cause := c, pc := s.pc } }

/-- The host ticks the block, asks for no reset, and no fault is latched: the tick has its six steps. -/
abbrev State.ticking (s : State) : Prop :=
  s.pending.cmd = .tick ∧ s.pending.inputs.resetReq = false ∧ s.fault = none

/-- The state in which an instruction executes in a tick from `s`: step 1 done, `JF` cleared (R90, R93). -/
def State.atExecute (s : State) : State := { s.beginTick with jf := false }

/-- The set bits of a sprite: bit `c` from the left of row `r`, at pixel (`row`, `col`), when drawn at
(`x0`, `y0`) from the bytes at `I` (44_display.md R161). -/
def State.spriteSets (s : State) (x0 y0 n : Nat) (row : Fin 32) (col : Fin 64) : Prop :=
  ∃ r c, r < n ∧ c < 8 ∧ row.val = (y0 + r) % 32 ∧ col.val = (x0 + c) % 64 ∧
    (s.byteAt (s.i.toNat + r)).getLsbD (7 - c) = true

/-! ### Who writes what (10_state.md R39) -/

/-- The nine extended opcodes, the writers of `REPORT`. -/
def isExtended : Instr → Bool
  | .scdN _ | .scr | .scl | .exit | .low | .high | .drwVxVy0 _ _ | .ldRVx _ | .ldVxR _ => true
  | .cls | .ret | .jpNnn _ | .callNnn _ | .ldINnn _ | .jpV0Nnn _ => false
  | .seVxKk _ _ | .sneVxKk _ _ | .ldVxKk _ _ | .addVxKk _ _ | .rndVxKk _ _ => false
  | .seVxVy _ _ | .sneVxVy _ _ | .ldVxVy _ _ | .orVxVy _ _ | .andVxVy _ _ | .xorVxVy _ _ => false
  | .addVxVy _ _ | .subVxVy _ _ | .shrVxVy _ _ | .subnVxVy _ _ | .shlVxVy _ _ | .drwVxVyN _ _ _ => false
  | .skpVx _ | .sknpVx _ | .ldVxDt _ | .ldVxK _ | .ldDtVx _ | .ldStVx _ => false
  | .addIVx _ | .ldFVx _ | .ldBVx _ | .ldMemVx _ | .ldVxMem _ => false

/-- The instructions that set `JF`. -/
def setsJumpFlag (i : Instr) : Prop := ∃ nnn, i = .jpNnn nnn ∨ i = .callNnn nnn ∨ i = .jpV0Nnn nnn

/-- The instructions that write `PC` beside the advance step. -/
def transfersControl (i : Instr) : Prop :=
  setsJumpFlag i ∨ i = .ret ∨ (∃ x kk, i = .seVxKk x kk ∨ i = .sneVxKk x kk) ∨
    (∃ x y, i = .seVxVy x y ∨ i = .sneVxVy x y) ∨ ∃ x, i = .skpVx x ∨ i = .sknpVx x

/-- The instructions that can latch a fatal fault of their own. -/
def canFault (i : Instr) : Prop :=
  (∃ nnn, i = .callNnn nnn) ∨ i = .ret ∨ (∃ x y n, i = .drwVxVyN x y n) ∨
    ∃ x, i = .skpVx x ∨ i = .sknpVx x ∨ i = .ldBVx x ∨ i = .ldMemVx x ∨ i = .ldVxMem x

/-- The general registers an instruction writes: `V[x]`, the flag register as a side effect
(10_state.md R21), and `V[0]` to `V[x]` for the register load. -/
def writesReg : Instr → Reg → Prop
  | .ldVxKk x _, k | .addVxKk x _, k | .rndVxKk x _, k | .ldVxVy x _, k | .ldVxDt x, k => k = x
  | .orVxVy x _, k | .andVxVy x _, k | .xorVxVy x _, k | .addVxVy x _, k | .subVxVy x _, k => k = x ∨ k = vF
  | .shrVxVy x _, k | .subnVxVy x _, k | .shlVxVy x _, k => k = x ∨ k = vF
  | .drwVxVyN _ _ _, k => k = vF
  | .ldVxMem x, k => k ≤ x
  | .scdN _, _ | .scr, _ | .scl, _ | .exit, _ | .low, _ | .high, _ | .drwVxVy0 _ _, _ | .ldRVx _, _ => False
  | .ldVxR _, _ | .cls, _ | .ret, _ | .jpNnn _, _ | .callNnn _, _ | .ldINnn _, _ | .jpV0Nnn _, _ => False
  | .seVxKk _ _, _ | .sneVxKk _ _, _ | .seVxVy _ _, _ | .sneVxVy _ _, _ | .skpVx _, _ | .sknpVx _, _ => False
  | .ldVxK _, _ | .ldDtVx _, _ | .ldStVx _, _ | .addIVx _, _ | .ldFVx _, _ | .ldBVx _, _ | .ldMemVx _, _ => False

/-- What holds after `Reset` and after every tick that the spec describes (10_state.md R37), with the
facts about the transient elements that the rules force. -/
structure State.Inv (s : State) : Prop where
  /-- R37 (a) -/
  pcBound : s.pc.toNat < 4096
  /-- R37 (c); `SP` is in 0 .. 15 by its type (b) -/
  stackBound : ∀ k, (s.stackAt k).toNat < 4096
  /-- the entry no `CALL` writes (R24) -/
  stackZero : s.stackAt 0 = 0
  /-- the canonical form of memory: every address below 4096 -/
  memWf : s.mem.wf
  /-- R37 (e) -/
  drawFlag : s.df = false
  /-- `tone` is up exactly when `ST` is not zero (40_instruction_cycle.md R100, R101) -/
  toneLevel : s.tone = decide (s.st ≠ 0)
  /-- R37 (f): while waiting for the release, `V[r]` is the code of a key, the one still down -/
  latchedKey : ∀ r, s.wait = .waitForRelease r → ∃ k : Fin 16, (s.v r).toNat = k.val ∧ s.keyDown k = true
  /-- a latched fault was raised by the instruction at `PC`, in a tick that reported and presented nothing -/
  afterFault : ∀ f, s.fault = some f →
    f.pc = s.pc ∧ s.wait = .resume ∧ s.report = none ∧ s.present = false ∧ s.loadOpen = false

end Sys2Proof.Machine
end

