-- ==== Sys2Proof/Certificates/Slice0/Obligations.lean ====
section
/-! DEFINITION. The statements for the provers. Each docstring names the rule of spec/ it formalises, and
the decision of spec/92_eei_decisions.md that rule rests on, where it rests on one. -/

open Sys2Proof Sys2Proof.Machine

/-! ### Encoding -/

/-- 30_encoding.md R70, R71, R74: decoding an encoded well-formed instruction gives it back, with every
operand at every value. -/
def Obligations.DecodeOfEncodeIsTheInstruction : Prop :=
  ∀ i : Instr, i.wellFormed = true → decodeWord (encode i) = .ok i

/-- 30_encoding.md R70, R77: a word that decodes is the encoding of what it decodes to, but for the low
nibble of families 5 and 9, which the decoder ignores (decision D4). -/
def Obligations.EncodeOfDecodeIsTheWordButIgnoredNibbles : Prop :=
  ∀ (w : Word) (i : Instr), decodeWord w = .ok i →
    i.wellFormed = true ∧
    encode i = if opField w = 0x5 ∨ opField w = 0x9 then w &&& 0xFFF0 else w

/-- 30_encoding.md R75, R76: the decode failures are exactly the listed words, each carrying itself. -/
def Obligations.DecodeFailuresAreTheListedWords : Prop :=
  ∀ w : Word,
    (decodeWord w = .error (.decodeFailure w) ↔
      (opField w = 0x0 ∧ ¬ (0x00C0 ≤ w.toNat ∧ w.toNat ≤ 0x00CF) ∧
        w ∉ [0x00E0#16, 0x00EE#16, 0x00FB#16, 0x00FC#16, 0x00FD#16, 0x00FE#16, 0x00FF#16]) ∨
      (opField w = 0x8 ∧ nField w ∈ [0x8#4, 0x9#4, 0xA#4, 0xB#4, 0xC#4, 0xD#4, 0xF#4]) ∨
      (opField w = 0xE ∧ kkField w ∉ [0x9E#8, 0xA1#8]) ∨
      (opField w = 0xF ∧ kkField w ∉
        [0x07#8, 0x0A#8, 0x15#8, 0x18#8, 0x1E#8, 0x29#8, 0x33#8, 0x55#8, 0x65#8, 0x75#8, 0x85#8])) ∧
    (∀ e, decodeWord w = .error e → e = .decodeFailure w)

/-- Words of 30_encoding.md R74 written out bit by bit, one of each family that carries operands. -/
def Obligations.SampleWordsDecode : Prop :=
  decodeWord 0b0001_101010111100#16 = .ok (.jpNnn 0xABC) ∧
  decodeWord 0b0000_0000_1100_0100#16 = .ok (.scdN 4) ∧
  decodeWord 0b0101_0001_0010_0111#16 = .ok (.seVxVy 1 2) ∧
  decodeWord 0b1000_0001_0010_0110#16 = .ok (.shrVxVy 1 2) ∧
  decodeWord 0b1101_0001_0010_0000#16 = .ok (.drwVxVy0 1 2) ∧
  decodeWord 0b1101_0001_0010_0101#16 = .ok (.drwVxVyN 1 2 5) ∧
  decodeWord 0b1110_0011_1010_0001#16 = .ok (.sknpVx 3) ∧
  decodeWord 0b1111_0010_0110_0101#16 = .ok (.ldVxMem 2) ∧
  decodeWord 0b1111_0001_0011_0000#16 = .error (.decodeFailure 0xF130)

/-! ### The tick -/

/-- 20_memory.md R52: the fetched word has the byte at `PC` as its high byte, the byte at `PC + 1` as its
low byte (decision D6); when `PC + 1` is above 4095 the fetch faults with that address (decision D7). -/
def Obligations.FetchIsBigEndianOrFaults : Prop :=
  ∀ s : State,
    (s.pc.toNat + 1 ≤ 4095 → ∃ w, s.fetch = .ok w ∧
      w.toNat = 256 * (s.byteAt s.pc.toNat).toNat + (s.byteAt (s.pc.toNat + 1)).toNat) ∧
    (4095 < s.pc.toNat + 1 → s.fetch = .error (.addressFault .fetch (s.pc.toNat + 1)))

/-- 40_instruction_cycle.md R90, R92, R93: in a tick whose gate is open, when the word at `PC` decodes to
`i`, the step is `exec i` after step 1 and with `JF` cleared, then (unless `i` latched a fault) the wait
step, the timers, present and tone, then the host's next move. -/
def Obligations.StepExecutesTheDecodedInstruction : Prop :=
  ∀ (s : State) (w : Word) (i : Instr), s.ticking → s.wait = .resume → s.pending.inputs.execDue = true →
    s.atExecute.fetch = .ok w → decodeWord w = .ok i →
    step s = andThen (andThen (exec i s.atExecute) finishTick) (fun t => .next t.takeNextMove)

/-- 60_exceptions.md R202, R204, 40_instruction_cycle.md R101 (decision D21, log entry 4): a fetched word
that matches no instruction latches `DecodeFailure` with the word and its address; `PC` stays and the tick
ends there, nothing else changed after step 1, and the host's next move is taken (the model's own, log
entries 1 and 2). The code 1 is the spec's own (R201, decision D26, log entry 19). -/
def Obligations.DecodeFailureIsLatchedAndNotSkipped : Prop :=
  ∀ (s : State) (w : Word), s.ticking → s.wait = .resume → s.pending.inputs.execDue = true →
    s.atExecute.fetch = .ok w → decodeWord w = .error (.decodeFailure w) →
    step s = .next (latched s.atExecute (.decodeFailure w)).takeNextMove ∧
    (latched s.atExecute (.decodeFailure w)).pc = s.pc ∧
    (latched s.atExecute (.decodeFailure w)).fault = some { cause := .decodeFailure w, pc := s.pc } ∧
    FatalCause.code (.decodeFailure w) = 1

/-- 20_memory.md R52, 60_exceptions.md R203 (decision D7): executing at `PC = 0xFFF` latches
`AddressFault(fetch, 0x1000)` and ends the tick. Its code is 3 (R201, decision D26, log entry 19). -/
def Obligations.FetchAtLastByteIsLatched : Prop :=
  ∀ s : State, s.ticking → s.wait = .resume → s.pending.inputs.execDue = true → s.pc = 0xFFF →
    step s = .next (latched s.atExecute (.addressFault .fetch 0x1000)).takeNextMove ∧
    FatalCause.code (.addressFault .fetch 0x1000) = 3

/-- 40_instruction_cycle.md R92, 45_keyboard_timers_random.md R173: while the gate is closed (a wait, or
no `exec_due`) the tick executes nothing: `PC`, `I`, the stack, memory and the framebuffer keep their
values, a register changes only where the wait step latches a key, and `Resume` stays. The keys are sampled
all the same (R91, decision D25), and the timers count and `tone` follows them, whatever `WAIT` is (R98, R100,
70_reset_and_hazards.md R240; decision D28). -/
def Obligations.ClosedGateExecutesNothing : Prop :=
  ∀ s t : State, s.ticking → s.df = false → (s.wait ≠ .resume ∨ s.pending.inputs.execDue = false) →
    step s = .next t →
    t.pc = s.pc ∧ t.i = s.i ∧ t.jf = s.jf ∧ t.sp = s.sp ∧ t.stack = s.stack ∧ t.mem = s.mem ∧ t.fb = s.fb ∧
    t.fault = none ∧ t.report = none ∧ t.present = false ∧ t.settings = s.settings ∧
    (∀ k, s.wait ≠ .halt k → t.v k = s.v k) ∧
    (∀ k, t.keyDown k =
      if s.pending.inputs.keysValid then s.pending.inputs.keys.getLsbD k.val else s.keyDown k) ∧
    t.dt = (if s.pending.inputs.timerDue = true ∧ s.dt ≠ 0 then s.dt - 1 else s.dt) ∧
    t.st = (if s.pending.inputs.timerDue = true ∧ s.st ≠ 0 then s.st - 1 else s.st) ∧
    t.tone = decide (t.st ≠ 0) ∧ t.df = false ∧ t.loadReport = s.loadReport ∧
    (s.wait = .resume → t.wait = .resume)

/-- 40_instruction_cycle.md R101 (decision D30): with a fault latched and no reset request a tick changes
nothing; only the host goes on to its next move. -/
def Obligations.LatchedFaultFreezesTheBlock : Prop :=
  ∀ (s : State) (f : FaultRecord), s.pending.cmd = .tick → s.pending.inputs.resetReq = false →
    s.fault = some f → step s = .next s.takeNextMove

/-- 40_instruction_cycle.md R96, 70_reset_and_hazards.md R230, R232 (decisions D23, D37): a tick with
`reset_req`, and the `Reset` operation, both answer the reset state from any state, a latched fault
included; the configuration stays unless the host changes it with this move. -/
def Obligations.ResetRequestGivesTheResetState : Prop :=
  ∀ s : State,
    (s.pending.cmd = .reset ∨ (s.pending.cmd = .tick ∧ s.pending.inputs.resetReq = true)) →
    ∃ u : State, step s = .next u.takeNextMove ∧
      u = { State.reset with
        settings := (match s.pending.settings with | some g => g | none => s.settings)
        pending := s.pending, feed := s.feed, moves := s.moves }

/-- 10_state.md R36: the reset values of the elements, under any settings and host moves. The 80 font bytes
are those of 20_memory.md R56, the spec's default of an open parameter (decision D16, log entry 7). -/
def Obligations.ResetValuesOfEveryElement : Prop :=
  ∀ (g : Settings) (m : HostMove) (ms : List HostMove) (n : Nat),
    let s := State.resetWith g m ms n
    (∀ k, s.v k = 0) ∧ s.i = 0 ∧ s.pc = 0x200 ∧ s.sp = 0 ∧ (∀ k, s.stackAt k = 0) ∧ s.dt = 0 ∧ s.st = 0 ∧
    (∀ row col, s.pixel row col = false) ∧ (∀ k, s.keyDown k = false) ∧ s.wait = .resume ∧
    s.jf = false ∧ s.df = false ∧ s.fault = none ∧ s.report = none ∧ s.present = false ∧ s.tone = false ∧
    s.loadReport = none ∧
    (∀ a, 80 ≤ a → s.byteAt a = 0) ∧
    s.bytesAt 0x00 20 = [0xF0, 0x90, 0x90, 0x90, 0xF0, 0x20, 0x60, 0x20, 0x20, 0x70,
      0xF0, 0x10, 0xF0, 0x80, 0xF0, 0xF0, 0x10, 0xF0, 0x10, 0xF0] ∧
    s.bytesAt 0x14 20 = [0x90, 0x90, 0xF0, 0x10, 0x10, 0xF0, 0x80, 0xF0, 0x10, 0xF0,
      0xF0, 0x80, 0xF0, 0x90, 0xF0, 0xF0, 0x10, 0x20, 0x40, 0x40] ∧
    s.bytesAt 0x28 20 = [0xF0, 0x90, 0xF0, 0x90, 0xF0, 0xF0, 0x90, 0xF0, 0x10, 0xF0,
      0xF0, 0x90, 0xF0, 0x90, 0x90, 0xE0, 0x90, 0xE0, 0x90, 0xE0] ∧
    s.bytesAt 0x3C 20 = [0xF0, 0x80, 0x80, 0x80, 0xF0, 0xE0, 0x90, 0x90, 0x90, 0xE0,
      0xF0, 0x80, 0xF0, 0x80, 0xF0, 0xF0, 0x80, 0xF0, 0x80, 0x80]

/-- 70_reset_and_hazards.md R233 (decision D24): in the window after a reset, `Load` stores the first
3584 bytes from `0x200` up, leaves every other byte, reports a truncation (code 7: 60_exceptions.md R201,
decision D26, log entry 19), and writes nothing else. -/
def Obligations.LoadStoresTheProgramAndReportsTruncation : Prop :=
  ∀ (s : State) (bytes : List Byte), s.pending.cmd = .load bytes → s.loadOpen = true →
    ∃ u : State, step s = .next u.takeNextMove ∧
      (∀ k, k < 3584 → ∀ b, bytes[k]? = some b → u.byteAt (0x200 + k) = b) ∧
      (∀ a, (a < 0x200 ∨ 0x200 + bytes.length ≤ a ∨ 4096 ≤ a) → u.byteAt a = s.byteAt a) ∧
      (u.loadReport = if 3584 < bytes.length then some .loadTruncated else none) ∧
      LoadReport.code .loadTruncated = 7 ∧
      u = { s with mem := u.mem, loadReport := u.loadReport, loadOpen := false }

/-- 70_reset_and_hazards.md R234, 93 U11: a `Load` outside its window is refused. The window is the
model's own field (log entry 8): every tick with its six steps, and every load, closes it. -/
def Obligations.LoadOutsideItsWindowIsRefused : Prop :=
  (∀ (s : State) (bytes : List Byte), s.pending.cmd = .load bytes → s.loadOpen = false →
    step s = .refused .loadOutsideWindow) ∧
  (∀ (s t : State) (bytes : List Byte), s.pending.cmd = .load bytes → step s = .next t → t.loadOpen = false) ∧
  (∀ s t : State, s.ticking → step s = .next t → t.loadOpen = false)

/-- 40_instruction_cycle.md R98 and the property it quotes: after `N` timer steps with `timer_due`, a
timer that held `t` holds `max(t - N, 0)`; without `timer_due` the step changes nothing. Steps 3 to 6
together, and a whole tick whose gate is closed, count both timers down once if `timer_due`, and at most
once (decision D28); `OpenGateTickGoesThroughItsSteps` says it of a tick whose gate is open. -/
def Obligations.TimersCountDownAndStopAtZero : Prop :=
  (∀ u t : State, u.afterExecute = .next t →
    t.dt = (if u.pending.inputs.timerDue = true ∧ u.dt ≠ 0 then u.dt - 1 else u.dt) ∧
    t.st = (if u.pending.inputs.timerDue = true ∧ u.st ≠ 0 then u.st - 1 else u.st)) ∧
  (∀ s t : State, s.ticking → (s.wait ≠ .resume ∨ s.pending.inputs.execDue = false) → step s = .next t →
    t.dt = (if s.pending.inputs.timerDue = true ∧ s.dt ≠ 0 then s.dt - 1 else s.dt) ∧
    t.st = (if s.pending.inputs.timerDue = true ∧ s.st ≠ 0 then s.st - 1 else s.st)) ∧
  ∀ s : State,
    (s.pending.inputs.timerDue = true → ∀ n,
      (State.timerStep^[n] s).dt.toNat = s.dt.toNat - n ∧ (State.timerStep^[n] s).st.toNat = s.st.toNat - n) ∧
    (s.pending.inputs.timerDue = false → s.timerStep = s)

/-- 40_instruction_cycle.md R99: `present` is raised in exactly the ticks that execute `CLS` or a `DRW`
that does not fault, with `FB` as step 2 left it, and `DF` is cleared. (`DF` is 0 between ticks, R32.) -/
def Obligations.PresentFollowsTheDrawFlag : Prop :=
  (∀ u t : State, u.afterExecute = .next t → t.present = u.df ∧ t.df = false ∧ t.fb = u.fb) ∧
  (∀ s t : State, s.ticking → s.df = false → step s = .next t →
    (t.present = true ↔
      s.wait = .resume ∧ s.pending.inputs.execDue = true ∧ t.fault = none ∧
      ∃ w i, s.atExecute.fetch = .ok w ∧ decodeWord w = .ok i ∧
        (i = .cls ∨ ∃ x y n, i = .drwVxVyN x y n))) ∧
  (∀ s t : State, (s.pending.cmd = .reset ∨ s.pending.inputs.resetReq = true ∧ s.pending.cmd = .tick) →
    step s = .next t → t.present = false)

/-- 40_instruction_cycle.md R100: a tick that runs to its end leaves `tone` up exactly when `ST` is not
zero after the timer step of the same tick. -/
def Obligations.ToneIsTheSoundTimerAfterTheTimerStep : Prop :=
  ∀ u t : State, u.afterExecute = .next t →
    (t.tone = true ↔ t.st ≠ 0) ∧
    t.st = (if u.pending.inputs.timerDue = true ∧ u.st ≠ 0 then u.st - 1 else u.st)

/-! ### The key wait -/

/-- 45_keyboard_timers_random.md R171: in `Halt(r)` the lowest key down is written into `V[r]` and the
wait goes on to its release; with no key down nothing happens. A whole tick does this with the keys
sampled in its own step 1, which keep their value where the sample is no key set (R91, decision D25).
Nothing but a reset leaves `Halt(r)` otherwise, and the release writes no register. -/
def Obligations.HaltLatchesTheLowestKeyDown : Prop :=
  (∀ (u : State) (r : Reg), u.wait = .halt r → (∀ k, u.keyDown k = false) → u.waitStep = .next u) ∧
  (∀ (u : State) (r : Reg) (k : Fin 16), u.wait = .halt r → u.keyDown k = true →
    (∀ j, j < k → u.keyDown j = false) →
    ∃ t, u.waitStep = .next t ∧ (t.v r).toNat = k.val ∧ t.wait = .waitForRelease r ∧
      (∀ q, q ≠ r → t.v q = u.v q) ∧ t = { u with regs := t.regs, wait := t.wait }) ∧
  (∀ (s : State) (r : Reg), s.ticking → s.wait = .halt r →
    ∃ t, step s = .next t ∧ (∀ k, t.keyDown k =
        if s.pending.inputs.keysValid then s.pending.inputs.keys.getLsbD k.val else s.keyDown k) ∧
      ((∀ k, t.keyDown k = false) → t.wait = .halt r ∧ t.regs = s.regs) ∧
      (∀ k, t.keyDown k = true → (∀ j, j < k → t.keyDown j = false) →
        (t.v r).toNat = k.val ∧ t.wait = .waitForRelease r)) ∧
  (∀ (s t : State) (r : Reg), s.wait = .halt r → step s = .next t →
    t.wait = .halt r ∨ t.wait = .waitForRelease r ∨
      s.pending.cmd = .reset ∨ (s.pending.cmd = .tick ∧ s.pending.inputs.resetReq = true)) ∧
  (∀ (u t : State) (r : Reg), u.wait = .waitForRelease r → u.waitStep = .next t → t.regs = u.regs)

/-- 45_keyboard_timers_random.md R172: `WaitForRelease(r)` resumes exactly when the key whose code `V[r]`
holds is up in this tick's sample, whatever the other keys do; no register is written. Where the sample is
no key set the key keeps its value (40_instruction_cycle.md R91, decision D25). -/
def Obligations.ReleaseOfTheLatchedKeyResumes : Prop :=
  ∀ (s : State) (r : Reg) (k : Fin 16), s.ticking → s.wait = .waitForRelease r → (s.v r).toNat = k.val →
    ∃ t, step s = .next t ∧ t.regs = s.regs ∧
      (t.keyDown k = if s.pending.inputs.keysValid then s.pending.inputs.keys.getLsbD k.val else s.keyDown k) ∧
      t.wait = if t.keyDown k then .waitForRelease r else .resume

/-- 45_keyboard_timers_random.md R170: the key wait writes no register, sets `WAIT = Halt(x)` and moves
`PC` past itself (decision D29). -/
def Obligations.KeyWaitEntersHalt : Prop :=
  ∀ (x : Reg) (s : State), ∃ t, exec (.ldVxK x) s = .next t ∧ t.wait = .halt x ∧ AtNextInstr s t ∧
    t.jf = false ∧ t = { s with wait := t.wait, pc := t.pc, jf := t.jf } ∧ SameMemory s t

/-! ### Control transfer -/

/-- 41_control_transfer.md R113. -/
def Obligations.JumpGoesToItsAddress : Prop :=
  ∀ (nnn : Addr) (s : State), decodeWord (formNnn 0x1 nnn) = .ok (.jpNnn nnn) ∧
    ∃ t, exec (.jpNnn nnn) s = .next t ∧ t.pc.toNat = nnn.toNat ∧ t.jf = true ∧ ChangesPcOnly s t

/-- 41_control_transfer.md R114 (decision D18): the target is `nnn + V[0]`, reduced modulo 4096. -/
def Obligations.JumpWithOffsetAddsV0AndWraps : Prop :=
  ∀ (nnn : Addr) (s : State), ∃ t, exec (.jpV0Nnn nnn) s = .next t ∧
    t.pc.toNat = (nnn.toNat + (s.v 0).toNat) % 4096 ∧ t.jf = true ∧ ChangesPcOnly s t

/-- 41_control_transfer.md R112, below the full stack: `SP` goes up first, its entry is the address of
the `CALL` itself, `PC` is the target. -/
def Obligations.CallPushesItsOwnAddress : Prop :=
  ∀ (nnn : Addr) (s : State), s.sp ≠ 15 →
    ∃ t, exec (.callNnn nnn) s = .next t ∧ t.sp.toNat = s.sp.toNat + 1 ∧ t.stackAt t.sp = s.pc ∧
      (∀ k, k ≠ t.sp → t.stackAt k = s.stackAt k) ∧ t.pc.toNat = nnn.toNat ∧ t.jf = true ∧
      t = { s with sp := t.sp, stack := t.stack, pc := t.pc, jf := t.jf } ∧ SameMemory s t

/-- 41_control_transfer.md R111, above the empty stack: `PC` is the popped address plus 2 modulo 4096
(decision D31), `SP` goes down, the entries stay. -/
def Obligations.ReturnGoesPastThePoppedCall : Prop :=
  ∀ s : State, s.sp ≠ 0 →
    ∃ t, exec .ret s = .next t ∧ t.pc.toNat = ((s.stackAt s.sp).toNat + 2) % 4096 ∧
      t.sp.toNat + 1 = s.sp.toNat ∧ t.jf = false ∧
      t = { s with sp := t.sp, pc := t.pc, jf := t.jf } ∧ SameMemory s t

/-- 41_control_transfer.md R119: a `CALL` followed by `RET` goes on after the `CALL`, with the `SP` of
before it, from every state whose stack is not full. -/
def Obligations.CallThenReturnComesBack : Prop :=
  ∀ (nnn : Addr) (s : State), s.sp ≠ 15 →
    ∃ t u, exec (.callNnn nnn) s = .next t ∧ exec .ret t = .next u ∧
      u.pc.toNat = (s.pc.toNat + 2) % 4096 ∧ u.sp = s.sp ∧ u.regs = s.regs ∧ SameMemory s u

/-- 41_control_transfer.md R115 to R118 with R110 (decision D34): the skips on an immediate and on two
registers; a taken skip leaves `PC` 4 further, one not taken 2, modulo 4096, and nothing else changes. -/
def Obligations.RegisterSkipsPassOverOneInstruction : Prop :=
  ∀ (x y : Reg) (kk : Byte) (s : State),
    (∃ t, exec (.seVxKk x kk) s = .next t ∧
      t.pc.toNat = (s.pc.toNat + if s.v x = kk then 4 else 2) % 4096 ∧ t.jf = false ∧ ChangesPcOnly s t) ∧
    (∃ t, exec (.sneVxKk x kk) s = .next t ∧
      t.pc.toNat = (s.pc.toNat + if s.v x = kk then 2 else 4) % 4096 ∧ t.jf = false ∧ ChangesPcOnly s t) ∧
    (∃ t, exec (.seVxVy x y) s = .next t ∧
      t.pc.toNat = (s.pc.toNat + if s.v x = s.v y then 4 else 2) % 4096 ∧ t.jf = false ∧ ChangesPcOnly s t) ∧
    (∃ t, exec (.sneVxVy x y) s = .next t ∧
      t.pc.toNat = (s.pc.toNat + if s.v x = s.v y then 2 else 4) % 4096 ∧ t.jf = false ∧ ChangesPcOnly s t)

/-- 41_control_transfer.md R120, R121 with R110 (decision D34), for `V[x]` the code of a key. -/
def Obligations.KeySkipsTestTheNamedKey : Prop :=
  ∀ (x : Reg) (k : Fin 16) (s : State), (s.v x).toNat = k.val →
    (∃ t, exec (.skpVx x) s = .next t ∧
      t.pc.toNat = (s.pc.toNat + if s.keyDown k then 4 else 2) % 4096 ∧ t.jf = false ∧ ChangesPcOnly s t) ∧
    (∃ t, exec (.sknpVx x) s = .next t ∧
      t.pc.toNat = (s.pc.toNat + if s.keyDown k then 2 else 4) % 4096 ∧ t.jf = false ∧ ChangesPcOnly s t)

/-- 41_control_transfer.md R111, R112, R120, R121, 60_exceptions.md R204 (decisions D9, D10, D17): a full
stack at `CALL`, an empty one at `RET`, and a key code above 15 latch their fault and change nothing
else. Their codes are 4, 5 and 6 (R201, decision D26, log entry 19). -/
def Obligations.StackAndKeyFaultsAreLatchedPrecisely : Prop :=
  (∀ (nnn : Addr) (s : State), s.sp = 15 → exec (.callNnn nnn) s = .next (latched s .stackOverflow)) ∧
  (∀ s : State, s.sp = 0 → exec .ret s = .next (latched s .stackUnderflow)) ∧
  (∀ (x : Reg) (s : State), 15 < (s.v x).toNat →
    exec (.skpVx x) s = .next (latched s (.keyIndexFault (s.v x))) ∧
    exec (.sknpVx x) s = .next (latched s (.keyIndexFault (s.v x)))) ∧
  FatalCause.code .stackOverflow = 4 ∧ FatalCause.code .stackUnderflow = 5 ∧
  (∀ b, FatalCause.code (.keyIndexFault b) = 6)

/-! ### Register loads and the ALU -/

/-- 42_alu.md R131, R133, 45_keyboard_timers_random.md R174, R177 (decisions D33, D34): the instructions
that write one register and nothing else: an immediate, another register, `DT`, the tick's random byte
masked. The random byte is the input of the pending move, any value. -/
def Obligations.PlainLoadsWriteTheirRegisterOnly : Prop :=
  ∀ (x y : Reg) (kk : Byte) (s : State),
    (∃ t, exec (.ldVxKk x kk) s = .next t ∧ t.v x = kk ∧ AtNextInstr s t ∧ t.jf = false ∧
      ChangesRegsOnly s t (· = x)) ∧
    (∃ t, exec (.ldVxVy x y) s = .next t ∧ t.v x = s.v y ∧ AtNextInstr s t ∧ t.jf = false ∧
      ChangesRegsOnly s t (· = x)) ∧
    (∃ t, exec (.ldVxDt x) s = .next t ∧ t.v x = s.dt ∧ AtNextInstr s t ∧ t.jf = false ∧
      ChangesRegsOnly s t (· = x)) ∧
    (∃ t, exec (.rndVxKk x kk) s = .next t ∧ t.v x = s.pending.inputs.rnd &&& kk ∧ AtNextInstr s t ∧
      t.jf = false ∧ ChangesRegsOnly s t (· = x))

/-- 42_alu.md R132 (decision D34): add immediate wraps modulo 256 and writes no flag. -/
def Obligations.AddImmediateWrapsAndKeepsTheFlag : Prop :=
  ∀ (x : Reg) (kk : Byte) (s : State), ∃ t, exec (.addVxKk x kk) s = .next t ∧
    (t.v x).toNat = ((s.v x).toNat + kk.toNat) % 256 ∧ AtNextInstr s t ∧ t.jf = false ∧
    ChangesRegsOnly s t (· = x)

/-- 42_alu.md R134 (decision D12): `VF` is zeroed, then both operands are read and the result written. -/
def Obligations.OrZeroesTheFlagFirst : Prop :=
  ∀ (x y : Reg) (s : State), ∃ t, exec (.orVxVy x y) s = .next t ∧
    t.v x = (if x = 15 then 0 else s.v x) ||| (if y = 15 then 0 else s.v y) ∧
    (x ≠ 15 → t.v 15 = 0) ∧ AtNextInstr s t ∧ t.jf = false ∧ ChangesRegsOnly s t (fun k => k = x ∨ k = 15)

/-- 42_alu.md R135 (decision D12): `VF` is zeroed, then both operands are read and the result written; `VF` ends 0. -/
def Obligations.AndZeroesTheFlagFirst : Prop :=
  ∀ (x y : Reg) (s : State), decodeWord (formXyn 0x8 x y 0x2) = .ok (.andVxVy x y) ∧
    ∃ t, exec (.andVxVy x y) s = .next t ∧
    t.v x = (if x = 15 then 0 else s.v x) &&& (if y = 15 then 0 else s.v y) ∧
    t.v 15 = 0 ∧ AtNextInstr s t ∧ t.jf = false ∧ ChangesRegsOnly s t (fun k => k = x ∨ k = 15)

/-- 42_alu.md R136 (decision D12): `VF` is zeroed, then both operands are read and the result written. -/
def Obligations.XorZeroesTheFlagFirst : Prop :=
  ∀ (x y : Reg) (s : State), ∃ t, exec (.xorVxVy x y) s = .next t ∧
    t.v x = (if x = 15 then 0 else s.v x) ^^^ (if y = 15 then 0 else s.v y) ∧
    (x ≠ 15 → t.v 15 = 0) ∧ AtNextInstr s t ∧ t.jf = false ∧ ChangesRegsOnly s t (fun k => k = x ∨ k = 15)

/-- 42_alu.md R137 (decision D11): sum modulo 256, then `VF` is the carry-out, for `x = 15` too. -/
def Obligations.AddSetsTheCarryLast : Prop :=
  ∀ (x y : Reg) (s : State), ∃ t, exec (.addVxVy x y) s = .next t ∧
    (x ≠ 15 → (t.v x).toNat = ((s.v x).toNat + (s.v y).toNat) % 256) ∧
    (t.v 15).toNat = (if (s.v x).toNat + (s.v y).toNat > 255 then 1 else 0) ∧
    AtNextInstr s t ∧ t.jf = false ∧ ChangesRegsOnly s t (fun k => k = x ∨ k = 15)

/-- 42_alu.md R138, R140 (decisions D11, D35): difference modulo 256, then `VF` is not-borrow. -/
def Obligations.SubtractionsSetNotBorrowLast : Prop :=
  ∀ (x y : Reg) (s : State),
    (∃ t, exec (.subVxVy x y) s = .next t ∧
      (x ≠ 15 → (t.v x).toNat = ((s.v x).toNat + 256 - (s.v y).toNat) % 256) ∧
      (t.v 15).toNat = (if (s.v x).toNat ≥ (s.v y).toNat then 1 else 0) ∧
      AtNextInstr s t ∧ t.jf = false ∧ ChangesRegsOnly s t (fun k => k = x ∨ k = 15)) ∧
    (∃ t, exec (.subnVxVy x y) s = .next t ∧
      (x ≠ 15 → (t.v x).toNat = ((s.v y).toNat + 256 - (s.v x).toNat) % 256) ∧
      (t.v 15).toNat = (if (s.v y).toNat ≥ (s.v x).toNat then 1 else 0) ∧
      AtNextInstr s t ∧ t.jf = false ∧ ChangesRegsOnly s t (fun k => k = x ∨ k = 15))

/-- 42_alu.md R139 (decision D11): the value shifted is `V[y]`, or `V[x]` under `SHIFT_QUIRK`; the result
is half of it, then `VF` is its old bit 0, in both quirk modes. -/
def Obligations.ShiftRightSetsTheBitShiftedOut : Prop :=
  ∀ (x y : Reg) (s : State) (b : Byte), b = (if s.settings.shiftQuirk then s.v x else s.v y) →
    ∃ t, exec (.shrVxVy x y) s = .next t ∧
      (x ≠ 15 → (t.v x).toNat = b.toNat / 2) ∧ (t.v 15).toNat = b.toNat % 2 ∧
      AtNextInstr s t ∧ t.jf = false ∧ ChangesRegsOnly s t (fun k => k = x ∨ k = 15)

/-- 42_alu.md R141 (decision D11): the value shifted is `V[y]`, or `V[x]` under `SHIFT_QUIRK`; the result
is its double modulo 256, then `VF` is its old bit 7, in both quirk modes. -/
def Obligations.ShiftLeftSetsTheBitShiftedOut : Prop :=
  ∀ (x y : Reg) (s : State) (b : Byte), b = (if s.settings.shiftQuirk then s.v x else s.v y) →
    ∃ t, exec (.shlVxVy x y) s = .next t ∧
      (x ≠ 15 → (t.v x).toNat = 2 * b.toNat % 256) ∧ (t.v 15).toNat = b.toNat / 128 ∧
      AtNextInstr s t ∧ t.jf = false ∧ ChangesRegsOnly s t (fun k => k = x ∨ k = 15)

/-! ### Index register, memory, timers -/

/-- 43_memory_index.md R150, R151, R152 (decisions D16, D19, D34): the three instructions that only set
`I`; the sum wraps modulo 65536, the glyph address is not masked, `VF` is not written. -/
def Obligations.IndexInstructionsSetOnlyTheIndex : Prop :=
  (∀ (nnn : Addr) (s : State), ∃ t, exec (.ldINnn nnn) s = .next t ∧ t.i.toNat = nnn.toNat ∧
    AtNextInstr s t ∧ t.jf = false ∧ ChangesIndexOnly s t) ∧
  (∀ (x : Reg) (s : State), ∃ t, exec (.addIVx x) s = .next t ∧
    t.i.toNat = (s.i.toNat + (s.v x).toNat) % 65536 ∧ AtNextInstr s t ∧ t.jf = false ∧ ChangesIndexOnly s t) ∧
  (∀ (x : Reg) (s : State), ∃ t, exec (.ldFVx x) s = .next t ∧ t.i.toNat = 5 * (s.v x).toNat ∧
    AtNextInstr s t ∧ t.jf = false ∧ ChangesIndexOnly s t)

/-- 43_memory_index.md R153, in range: hundreds, tens and units at `I`, `I + 1`, `I + 2`; every other byte
and `I` stay. -/
def Obligations.BcdStoresThreeDigits : Prop :=
  ∀ (x : Reg) (s : State), s.i.toNat + 2 ≤ 4095 →
    ∃ t, exec (.ldBVx x) s = .next t ∧
      (t.byteAt s.i.toNat).toNat = (s.v x).toNat / 100 ∧
      (t.byteAt (s.i.toNat + 1)).toNat = (s.v x).toNat / 10 % 10 ∧
      (t.byteAt (s.i.toNat + 2)).toNat = (s.v x).toNat % 10 ∧
      (∀ a, (a < s.i.toNat ∨ s.i.toNat + 3 ≤ a) → t.byteAt a = s.byteAt a) ∧
      AtNextInstr s t ∧ t.jf = false ∧ t = { s with mem := t.mem, pc := t.pc, jf := t.jf }

/-- 43_memory_index.md R154, in range: `V[0]` .. `V[x]` stand at `I` .. `I + x`, every other byte stays,
`I` ends just past the block. -/
def Obligations.DumpStoresRegistersThroughX : Prop :=
  ∀ (x : Reg) (s : State), s.i.toNat + x.val ≤ 4095 →
    ∃ t, exec (.ldMemVx x) s = .next t ∧
      (∀ k : Reg, k ≤ x → t.byteAt (s.i.toNat + k.val) = s.v k) ∧
      (∀ a, (a < s.i.toNat ∨ s.i.toNat + x.val < a) → t.byteAt a = s.byteAt a) ∧
      t.i.toNat = s.i.toNat + x.val + 1 ∧
      AtNextInstr s t ∧ t.jf = false ∧ t = { s with mem := t.mem, i := t.i, pc := t.pc, jf := t.jf }

/-- 43_memory_index.md R155: in range `V[0]` .. `V[x]` are loaded from `I` .. `I + x`, the registers above
`x` and every byte stay, `I` ends just past the block; out of range `AddressFault` is latched before any
register is written (decision D8, log entries 4 and 17). -/
def Obligations.LoadFillsRegistersThroughX : Prop :=
  ∀ (x : Reg) (s : State), decodeWord (formXkk 0xF x 0x65) = .ok (.ldVxMem x) ∧
    (s.i.toNat + x.val ≤ 4095 → ∃ t, exec (.ldVxMem x) s = .next t ∧
      (∀ k : Reg, k ≤ x → t.v k = s.byteAt (s.i.toNat + k.val)) ∧
      (∀ k : Reg, x < k → t.v k = s.v k) ∧
      t.i.toNat = s.i.toNat + x.val + 1 ∧ AtNextInstr s t ∧ t.jf = false ∧
      t = { s with regs := t.regs, i := t.i, pc := t.pc, jf := t.jf } ∧ SameMemory s t) ∧
    (4095 < s.i.toNat + x.val →
      exec (.ldVxMem x) s = .next (latched s (.addressFault .data (s.i.toNat + x.val))))

/-- 20_memory.md R53, 60_exceptions.md R203 (decision D8): a data access whose last byte is above `0xFFF`
latches `AddressFault` with that address, computed without wrap, and changes nothing else. Its code is 3
(R201, decision D26, log entry 19). -/
def Obligations.DataAccessPastTheEndFaults : Prop :=
  ∀ (x y : Reg) (n : Nibble) (s : State),
    (4095 < s.i.toNat + 2 →
      exec (.ldBVx x) s = .next (latched s (.addressFault .data (s.i.toNat + 2)))) ∧
    (4095 < s.i.toNat + x.val →
      exec (.ldMemVx x) s = .next (latched s (.addressFault .data (s.i.toNat + x.val)))) ∧
    (4095 < s.i.toNat + n.toNat - 1 → n ≠ 0 →
      exec (.drwVxVyN x y n) s = .next (latched s (.addressFault .data (s.i.toNat + n.toNat - 1)))) ∧
    (∀ a, FatalCause.code (.addressFault .data a) = 3)

/-- 45_keyboard_timers_random.md R175, R176 (decision D34): the two timer writes. -/
def Obligations.TimerWritesSetOnlyTheirTimer : Prop :=
  ∀ (x : Reg) (s : State),
    (∃ t, exec (.ldDtVx x) s = .next t ∧ t.dt = s.v x ∧ AtNextInstr s t ∧ t.jf = false ∧
      t = { s with dt := t.dt, pc := t.pc, jf := t.jf } ∧ SameMemory s t) ∧
    (∃ t, exec (.ldStVx x) s = .next t ∧ t.st = s.v x ∧ AtNextInstr s t ∧ t.jf = false ∧
      t = { s with st := t.st, pc := t.pc, jf := t.jf } ∧ SameMemory s t)

/-- 20_memory.md R61: what `LD [I], Vx` or `LD B, Vx` stores is what every later fetch reads, at whatever
`PC`, with nothing in between: `u` is any state with the memory the store left, and the first of them is
the state right after it, at the next instruction. A fetched byte outside the block is the old one. -/
def Obligations.StoreIsSeenByTheNextFetch : Prop :=
  ∀ (x : Reg) (s : State),
    (s.i.toNat + x.val ≤ 4095 →
      ∃ t, exec (.ldMemVx x) s = .next t ∧ AtNextInstr s t ∧
        ∀ u : State, u.mem = t.mem → u.pc.toNat + 1 ≤ 4095 →
          ∃ hi lo, u.fetch = .ok (wordOfBytes hi lo) ∧
            (∀ k : Reg, k ≤ x → (s.i.toNat + k.val = u.pc.toNat → hi = s.v k) ∧
              (s.i.toNat + k.val = u.pc.toNat + 1 → lo = s.v k)) ∧
            ((u.pc.toNat < s.i.toNat ∨ s.i.toNat + x.val < u.pc.toNat) → hi = s.byteAt u.pc.toNat) ∧
            ((u.pc.toNat + 1 < s.i.toNat ∨ s.i.toNat + x.val < u.pc.toNat + 1) →
              lo = s.byteAt (u.pc.toNat + 1))) ∧
    (s.i.toNat + 2 ≤ 4095 →
      ∃ t, exec (.ldBVx x) s = .next t ∧ AtNextInstr s t ∧
        ∀ u : State, u.mem = t.mem → u.pc.toNat + 1 ≤ 4095 →
          ∃ hi lo, u.fetch = .ok (wordOfBytes hi lo) ∧
            (u.pc.toNat = s.i.toNat → hi.toNat = (s.v x).toNat / 100) ∧
            (u.pc.toNat = s.i.toNat + 1 → hi.toNat = (s.v x).toNat / 10 % 10) ∧
            (u.pc.toNat = s.i.toNat + 2 → hi.toNat = (s.v x).toNat % 10) ∧
            (u.pc.toNat + 1 = s.i.toNat → lo.toNat = (s.v x).toNat / 100) ∧
            (u.pc.toNat + 1 = s.i.toNat + 1 → lo.toNat = (s.v x).toNat / 10 % 10) ∧
            (u.pc.toNat + 1 = s.i.toNat + 2 → lo.toNat = (s.v x).toNat % 10) ∧
            ((u.pc.toNat < s.i.toNat ∨ s.i.toNat + 2 < u.pc.toNat) → hi = s.byteAt u.pc.toNat) ∧
            ((u.pc.toNat + 1 < s.i.toNat ∨ s.i.toNat + 2 < u.pc.toNat + 1) →
              lo = s.byteAt (u.pc.toNat + 1)))

/-! ### Display -/

/-- 44_display.md R160 (decision D15): every pixel 0 and the draw flag set, whatever was on the screen. -/
def Obligations.ClearScreenClearsEveryPixel : Prop :=
  ∀ s : State, ∃ t, exec .cls s = .next t ∧ (∀ row col, t.pixel row col = false) ∧ t.df = true ∧
    AtNextInstr s t ∧ t.jf = false ∧ t = { s with fb := t.fb, df := t.df, pc := t.pc, jf := t.jf } ∧
    SameMemory s t

/-- 44_display.md R161, in range: exactly the pixels of the sprite's set bits flip, each wrapped on its
own; `VF` is 1 exactly when one of them was set before; the draw flag is set; the coordinates are those
before `VF` was zeroed (decision D13). -/
def Obligations.DrawFlipsTheSpriteAndReportsCollision : Prop :=
  ∀ (x y : Reg) (n : Nibble) (s : State), n ≠ 0 → s.i.toNat + n.toNat - 1 ≤ 4095 →
    ∃ t, exec (.drwVxVyN x y n) s = .next t ∧
      (∀ row col, t.pixel row col = true ↔
        ¬ (s.pixel row col = true ↔ s.spriteSets (s.v x).toNat (s.v y).toNat n.toNat row col)) ∧
      ((t.v 15 = 1 ∧ ∃ row col, s.pixel row col = true ∧
          s.spriteSets (s.v x).toNat (s.v y).toNat n.toNat row col) ∨
        (t.v 15 = 0 ∧ ∀ row col, s.spriteSets (s.v x).toNat (s.v y).toNat n.toNat row col →
          s.pixel row col = false)) ∧
      (∀ k, k ≠ 15 → t.v k = s.v k) ∧ t.df = true ∧ AtNextInstr s t ∧ t.jf = false ∧
      t = { s with regs := t.regs, fb := t.fb, df := t.df, pc := t.pc, jf := t.jf } ∧ SameMemory s t

/-- 44_display.md R162 (a): drawing the same sprite at the same place twice restores the framebuffer, and
the second draw reports a collision exactly when a set bit of the sprite met a clear pixel at first.
(`x`, `y` other than 15: the flag register is no coordinate, so the place is the same.) -/
def Obligations.DrawingTwiceRestoresTheFramebuffer : Prop :=
  ∀ (x y : Reg) (n : Nibble) (s : State), x ≠ 15 → y ≠ 15 → n ≠ 0 → s.i.toNat + n.toNat - 1 ≤ 4095 →
    ∃ t u, exec (.drwVxVyN x y n) s = .next t ∧ exec (.drwVxVyN x y n) t = .next u ∧
      (∀ row col, u.pixel row col = s.pixel row col) ∧
      (u.v 15 = 1 ↔ ∃ row col, s.spriteSets (s.v x).toNat (s.v y).toNat n.toNat row col ∧
        s.pixel row col = false)

/-! ### Extended opcodes -/

/-- 46_extended.md R180 for R181 to R186, R188 and R189 (decision D22; the encodings, D2): each of these
opcodes decodes as given, reports its word as not implemented (code 2: 60_exceptions.md R201, decision D26,
log entry 19), goes on to the next instruction and changes nothing else. -/
def Obligations.ExtendedOpcodesReportAndGoOn : Prop :=
  ∀ (n : Nibble) (x : Reg) (s : State) (w : Word) (i : Instr),
    (w, i) ∈ [(0x00C0#16 ||| n.setWidth 16, Instr.scdN n), (0x00FB#16, .scr), (0x00FC#16, .scl),
      (0x00FD#16, .exit), (0x00FE#16, .low), (0x00FF#16, .high),
      (formXkk 0xF x 0x75, .ldRVx x), (formXkk 0xF x 0x85, .ldVxR x)] →
    decodeWord w = .ok i ∧
    Report.code (.notImplemented w) = 2 ∧
    ∃ t, exec i s = .next t ∧ t.report = some (.notImplemented w) ∧ AtNextInstr s t ∧ t.jf = false ∧
      t = { s with report := t.report, pc := t.pc, jf := t.jf } ∧ SameMemory s t

/-- 46_extended.md R187 (decision D5): the extended draw reports itself and does nothing else, whatever
`I` holds. -/
def Obligations.ExtendedDrawOnlyReports : Prop :=
  ∀ (x y : Reg) (s : State), decodeWord (formXyn 0xD x y 0x0) = .ok (.drwVxVy0 x y) ∧
    ∃ t, exec (.drwVxVy0 x y) s = .next t ∧ t.report = some (.notImplemented (formXyn 0xD x y 0x0)) ∧
      AtNextInstr s t ∧ t.jf = false ∧ t.df = s.df ∧ t.fb = s.fb ∧ t.v 15 = s.v 15 ∧ t.fault = s.fault ∧
      t = { s with report := t.report, pc := t.pc, jf := t.jf } ∧ SameMemory s t

/-! ### The whole machine -/

/-- 40_instruction_cycle.md R93: every instruction, on every state and operand, answers a next state. -/
def Obligations.EveryInstructionAnswersANextState : Prop :=
  ∀ (i : Instr) (s : State), ∃ t, exec i s = .next t

/-- 60_exceptions.md R204 (decision D21): an instruction that latches a fault changes nothing else, the
record holds its address, and it is none of the extended opcodes. -/
def Obligations.FatalFaultsArePrecise : Prop :=
  ∀ (i : Instr) (s t : State) (f : FaultRecord), s.running → exec i s = .next t → t.fault = some f →
    t = latched s f.cause ∧ f.pc = s.pc ∧
    ((∃ nnn, i = .callNnn nnn ∧ f.cause = .stackOverflow) ∨ (i = .ret ∧ f.cause = .stackUnderflow) ∨
     (∃ x, (i = .skpVx x ∨ i = .sknpVx x) ∧ f.cause = .keyIndexFault (s.v x)) ∨
     (∃ a, 4095 < a ∧ f.cause = .addressFault .data a ∧
       ((∃ x, i = .ldBVx x ∨ i = .ldMemVx x ∨ i = .ldVxMem x) ∨ ∃ x y n, i = .drwVxVyN x y n)))

/-- 10_state.md R39 (the access matrix, its column of writers): which instructions can change which
element. `PC` is written by the advance step for all (40_instruction_cycle.md R95), and `JF` holds 1 after
the jump class only; a fault leaves both (60_exceptions.md R204, decision D21, log entries 4 and 17), and
the instructions with a fault of their own are those of R201. No instruction changes the keypad latch, the outputs of the tick or the configuration. -/
def Obligations.OnlyTheNamedInstructionsWriteEachElement : Prop :=
  ∀ (i : Instr) (s t : State), exec i s = .next t →
    (t.fb ≠ s.fb → i = .cls ∨ ∃ x y n, i = .drwVxVyN x y n) ∧
    (t.df ≠ s.df → i = .cls ∨ ∃ x y n, i = .drwVxVyN x y n) ∧
    (t.mem ≠ s.mem → ∃ x, i = .ldBVx x ∨ i = .ldMemVx x) ∧
    (t.stack ≠ s.stack → ∃ nnn, i = .callNnn nnn) ∧
    (t.sp ≠ s.sp → i = .ret ∨ ∃ nnn, i = .callNnn nnn) ∧
    (t.i ≠ s.i → (∃ nnn, i = .ldINnn nnn) ∨ ∃ x, i = .addIVx x ∨ i = .ldFVx x ∨ i = .ldMemVx x ∨ i = .ldVxMem x) ∧
    (t.dt ≠ s.dt → ∃ x, i = .ldDtVx x) ∧
    (t.st ≠ s.st → ∃ x, i = .ldStVx x) ∧
    (t.wait ≠ s.wait → ∃ x, i = .ldVxK x) ∧
    (∀ k, t.v k ≠ s.v k → writesReg i k) ∧
    (t.report ≠ s.report → isExtended i = true) ∧
    (t.fault ≠ s.fault → canFault i) ∧
    (s.running → t.running → (t.jf = true ↔ setsJumpFlag i) ∧ (¬ transfersControl i → AtNextInstr s t)) ∧
    (s.running → ¬ t.running → t.jf = s.jf ∧ t.pc = s.pc) ∧
    t.keys = s.keys ∧ t.present = s.present ∧ t.tone = s.tone ∧ t.loadReport = s.loadReport ∧
    t.settings = s.settings ∧ t.pending = s.pending ∧ t.feed = s.feed ∧ t.moves = s.moves ∧
    t.loadOpen = s.loadOpen

/-- 40_instruction_cycle.md R94, 00_scope.md R6, 70_reset_and_hazards.md R241: the only instructions that
read `SHIFT_QUIRK` are the two shifts, none reads `CLOCK_KHZ`, and only `RND` reads the tick's inputs:
under other settings and another pending move, every other instruction does the same. -/
def Obligations.InstructionsReadNoOtherInput : Prop :=
  ∀ (i : Instr) (s : State) (g : Settings) (m : HostMove),
    ((∀ x y, i ≠ .shrVxVy x y ∧ i ≠ .shlVxVy x y) ∨ g.shiftQuirk = s.settings.shiftQuirk) →
    ((∀ x kk, i ≠ .rndVxKk x kk) ∨ m.inputs.rnd = s.pending.inputs.rnd) →
    exec i { s with settings := g, pending := m } =
      andThen (exec i s) (fun t => .next { t with settings := g, pending := m })

/-- 10_state.md R34, R41: `REPORT`, `present` and `load_report` do not influence what a tick does. -/
def Obligations.ReportOutputsInfluenceNothing : Prop :=
  ∀ (s : State) (r : Option Report) (p : Bool) (l : Option LoadReport), s.ticking →
    step { s with report := r, present := p, loadReport := l } =
      andThen (step s) (fun t => .next { t with loadReport := l })

/-- 70_reset_and_hazards.md R232 (decision D23): no move but one that resets the block changes the
configuration. That the new settings come with that move is the model's own (log entries 3 and 15). -/
def Obligations.ConfigurationChangesOnlyWithAReset : Prop :=
  ∀ s t : State, step s = .next t → t.settings ≠ s.settings →
    (s.pending.cmd = .reset ∨ (s.pending.cmd = .tick ∧ s.pending.inputs.resetReq = true)) ∧
    s.pending.settings = some t.settings

/-- 10_state.md R37: the reset state meets the invariant, under any settings and host moves. -/
def Obligations.ResetStateMeetsTheInvariant : Prop :=
  ∀ (g : Settings) (m : HostMove) (ms : List HostMove) (n : Nat), (State.resetWith g m ms n).Inv

/-- 10_state.md R37: every move of the host keeps the invariant, whatever its inputs, from every state
that meets it. -/
def Obligations.EveryStepKeepsTheInvariant : Prop :=
  ∀ s t : State, s.Inv → step s = .next t → t.Inv

/-- 45_keyboard_timers_random.md R172: in a state that meets the invariant the model's own fault cannot
happen; the only move without a next state is a `Load` outside its window. -/
def Obligations.InvariantStatesNeverStopOnATick : Prop :=
  ∀ s : State, s.Inv → (∃ t, step s = .next t) ∨
    (∃ bytes, s.pending.cmd = .load bytes ∧ s.loadOpen = false ∧ step s = .refused .loadOutsideWindow)

/-- The model's own (log entry 9): the placed word is what the very next tick fetches and executes. -/
def Obligations.PlacedWordIsFetchedNext : Prop :=
  ∀ (s : State) (nbits w : Nat),
    (s.withFetchWord nbits w).ticking ∧ (s.withFetchWord nbits w).beginTick.gateOpen = true ∧
    (s.withFetchWord nbits w).atExecute.fetch = .ok (tableWord nbits w)

/-! ### A tick with an open gate, step by step -/

/-- 40_instruction_cycle.md R90, R91, R97 to R101, 10_state.md R34 (decisions D21, D22, D25, D28): in a tick
whose gate is open the keys are sampled whatever happens next, `JF`, `REPORT` and `present` are cleared, and
nothing else is changed before the instruction. An instruction that latches a fault ends the tick there;
else the wait step, the timers, present and tone follow, written out. After the tick `REPORT` holds the
word of an extended opcode and is clear otherwise, a faulting tick included. (The window of `Load` and the
host's next move are the model's own, log entries 2 and 8.) -/
def Obligations.OpenGateTickGoesThroughItsSteps : Prop :=
  ∀ s : State, s.ticking → s.wait = .resume → s.pending.inputs.execDue = true →
    s.atExecute = { s with
      keys := s.atExecute.keys, report := none, present := false, loadOpen := false, jf := false } ∧
    (∀ t, step s = .next t → ∀ k, t.keyDown k =
      if s.pending.inputs.keysValid then s.pending.inputs.keys.getLsbD k.val else s.keyDown k) ∧
    (∀ t, step s = .next t → (∀ w i, ¬ (s.atExecute.fetch = .ok w ∧ decodeWord w = .ok i)) → t.report = none) ∧
    (∀ w i, s.atExecute.fetch = .ok w → decodeWord w = .ok i →
      (∀ t, step s = .next t → t.report = if isExtended i then some (.notImplemented w) else none) ∧
      (∀ u f, exec i s.atExecute = .next u → u.fault = some f →
        step s = .next (latched s.atExecute f.cause).takeNextMove) ∧
      (∀ u, exec i s.atExecute = .next u → u.fault = none →
        ∃ v : State,
          (u.wait = .resume → v = u) ∧
          (∀ r, u.wait = .halt r → (∀ k, u.keyDown k = false) → v = u) ∧
          (∀ r k, u.wait = .halt r → u.keyDown k = true → (∀ j, j < k → u.keyDown j = false) →
            v = { u.setV r (BitVec.ofNat 8 k.val) with wait := .waitForRelease r }) ∧
          (u.wait = .resume ∨ ∃ r, u.wait = .halt r) ∧
          step s = .next (State.takeNextMove { v with
            dt := if s.pending.inputs.timerDue = true ∧ v.dt ≠ 0 then v.dt - 1 else v.dt
            st := if s.pending.inputs.timerDue = true ∧ v.st ≠ 0 then v.st - 1 else v.st
            present := v.df
            df := false
            tone := decide ((if s.pending.inputs.timerDue = true ∧ v.st ≠ 0 then v.st - 1 else v.st) ≠ 0) })))
end

