-- ==== Sys2Proof/Laws/Memory.lean ====
section
/-! SUPPORT. Memory: a read after a write, and that every write keeps the canonical form. -/

namespace Sys2Proof.Machine

namespace Memory

theorem read_filter_ne (m : Memory) {a a' : Nat} (h : a' ≠ a) :
    Memory.read (m.filter (fun c => c.1 ≠ a)) a' = m.read a' := by
  induction m with
  | nil => rfl
  | cons c rest ih =>
    by_cases hc : c.1 = a
    · rw [List.filter_cons_of_neg (by simpa using hc), ih]
      simp [Memory.read, show c.1 ≠ a' from fun e => h (e.symm.trans hc)]
    · rw [List.filter_cons_of_pos (by simpa using hc)]
      simp only [Memory.read, ih]

theorem read_of_notMem (m : Memory) (a : Nat) (h : ∀ c ∈ m, c.1 ≠ a) : m.read a = resetByte a := by
  induction m with
  | nil => rfl
  | cons c rest ih =>
    have hc : c.1 ≠ a := h c (by simp)
    simp only [Memory.read, if_neg hc]
    exact ih fun d hd => h d (List.mem_cons_of_mem _ hd)

theorem read_insert_other (m : Memory) {a a' : Nat} (b : Byte) (h : a' ≠ a) :
    (Memory.insert m a b).read a' = m.read a' := by
  induction m with
  | nil => simp [Memory.insert, Memory.read, h.symm]
  | cons c rest ih =>
    simp only [Memory.insert]
    split
    · simp [Memory.read, h.symm]
    · simp only [Memory.read, ih]

theorem read_insert_same (m : Memory) (a : Nat) (b : Byte) (h : ∀ c ∈ m, c.1 ≠ a) :
    (Memory.insert m a b).read a = b := by
  induction m with
  | nil => simp [Memory.insert, Memory.read]
  | cons c rest ih =>
    simp only [Memory.insert]
    split
    · simp [Memory.read]
    · simp only [Memory.read, if_neg (h c (by simp))]
      exact ih fun d hd => h d (List.mem_cons_of_mem _ hd)

theorem filter_ne_notMem (m : Memory) (a : Nat) : ∀ c ∈ m.filter (fun c => c.1 ≠ a), c.1 ≠ a := by
  intro c hc
  simpa using (List.mem_filter.1 hc).2

/-- A read of the address just written gives the byte written. -/
@[simp] theorem read_write_same (m : Memory) (a : Nat) (b : Byte) : (m.write a b).read a = b := by
  unfold Memory.write
  split
  · next hb => rw [read_of_notMem _ _ (filter_ne_notMem m a), hb]
  · exact read_insert_same _ _ _ (filter_ne_notMem m a)

/-- A write leaves every other address as it was. -/
theorem read_write_other (m : Memory) {a a' : Nat} (b : Byte) (h : a' ≠ a) :
    (m.write a b).read a' = m.read a' := by
  unfold Memory.write
  split
  · exact read_filter_ne m h
  · rw [read_insert_other _ _ h, read_filter_ne m h]

theorem read_write (m : Memory) (a a' : Nat) (b : Byte) :
    (m.write a b).read a' = if a' = a then b else m.read a' := by
  split
  · next h => subst h; simp
  · next h => exact read_write_other m b h

/-- What a byte reads as after a list of bytes was stored. -/
theorem read_writeBytes (bs : List Byte) : ∀ (m : Memory) (a a' : Nat),
    (m.writeBytes a bs).read a' = if a ≤ a' then (bs[a' - a]?).getD (m.read a') else m.read a' := by
  induction bs with
  | nil => intro m a a'; simp [Memory.writeBytes]
  | cons b bs ih =>
    intro m a a'
    rw [Memory.writeBytes, ih, read_write]
    rcases Nat.lt_trichotomy a' a with h | h | h
    · simp only [if_neg (show ¬ a + 1 ≤ a' by omega), if_neg (show ¬ a' = a by omega),
        if_neg (show ¬ a ≤ a' by omega)]
    · subst h; simp
    · simp only [if_pos (show a + 1 ≤ a' by omega), if_neg (show ¬ a' = a by omega),
        if_pos (show a ≤ a' by omega), show a' - a = (a' - (a + 1)) + 1 by omega, List.getElem?_cons_succ]

theorem mem_insert {m : Memory} {a : Nat} {b : Byte} {c : Host.Cell} :
    c ∈ Memory.insert m a b ↔ c = (a, b) ∨ c ∈ m := by
  induction m with
  | nil => simp [Memory.insert]
  | cons d rest ih =>
    simp only [Memory.insert]
    split
    · simp
    · simp only [List.mem_cons, ih]
      tauto

theorem pairwise_insert {m : Memory} {a : Nat} {b : Byte} (h : m.Pairwise (fun c d => c.1 < d.1))
    (ha : ∀ c ∈ m, c.1 ≠ a) : (Memory.insert m a b).Pairwise (fun c d => c.1 < d.1) := by
  induction m with
  | nil => simp [Memory.insert]
  | cons d rest ih =>
    obtain ⟨hd, hrest⟩ := List.pairwise_cons.1 h
    simp only [Memory.insert]
    split
    · next hlt =>
      refine List.pairwise_cons.2 ⟨fun c hc => ?_, h⟩
      rcases List.mem_cons.1 hc with rfl | hc
      · exact hlt
      · exact Nat.lt_trans hlt (hd c hc)
    · next hge =>
      refine List.pairwise_cons.2 ⟨fun c hc => ?_, ih hrest fun c hc => ha c (List.mem_cons_of_mem _ hc)⟩
      have hne := ha d (by simp)
      rcases mem_insert.1 hc with rfl | hc
      · show d.1 < a
        omega
      · exact hd c hc

/-- A write inside the address space keeps the canonical form. -/
theorem wf_write {m : Memory} {a : Nat} {b : Byte} (h : m.wf) (ha : a < Config.memSize) :
    (m.write a b).wf := by
  have hf : (m.filter (fun c => c.1 ≠ a)).Pairwise (fun c d => c.1 < d.1) := h.1.filter _
  have hin : ∀ c ∈ m.filter (fun c => c.1 ≠ a), c.1 < Config.memSize ∧ c.2 ≠ resetByte c.1 :=
    fun c hc => h.2 c (List.mem_filter.1 hc).1
  unfold Memory.write
  split
  · exact ⟨hf, hin⟩
  · next hb =>
    refine ⟨pairwise_insert hf (filter_ne_notMem m a), fun c hc => ?_⟩
    rcases mem_insert.1 hc with rfl | hc
    · exact ⟨ha, hb⟩
    · exact hin c hc

/-- A store of bytes inside the address space keeps the canonical form. -/
theorem wf_writeBytes (bs : List Byte) : ∀ {m : Memory} {a : Nat}, m.wf →
    a + bs.length ≤ Config.memSize → (m.writeBytes a bs).wf := by
  induction bs with
  | nil => intro m a h _; exact h
  | cons b bs ih =>
    intro m a h ha
    rw [List.length_cons] at ha
    exact ih (wf_write h (by omega)) (by omega)

end Memory

/-- The memory of the reset state has the canonical form. -/
theorem reset_mem_wf : State.reset.mem.wf := by decide

@[simp] theorem byteAt_eq (s : State) (a : Nat) : s.byteAt a = s.mem.read a := rfl

end Sys2Proof.Machine
end

