-- ==== Sys2Proof/Laws/State.lean ====
section
/-! SUPPORT. One lemma per field and update: what each named operation leaves alone, so that no later
proof unfolds a record update. -/

namespace Sys2Proof.Machine

/-! ### `State.setV` -/

@[simp] theorem setV_i (s : State) (x : Reg) (b : Byte) : (s.setV x b).i = s.i := rfl
@[simp] theorem setV_pc (s : State) (x : Reg) (b : Byte) : (s.setV x b).pc = s.pc := rfl
@[simp] theorem setV_sp (s : State) (x : Reg) (b : Byte) : (s.setV x b).sp = s.sp := rfl
@[simp] theorem setV_stack (s : State) (x : Reg) (b : Byte) : (s.setV x b).stack = s.stack := rfl
@[simp] theorem setV_dt (s : State) (x : Reg) (b : Byte) : (s.setV x b).dt = s.dt := rfl
@[simp] theorem setV_st (s : State) (x : Reg) (b : Byte) : (s.setV x b).st = s.st := rfl
@[simp] theorem setV_fb (s : State) (x : Reg) (b : Byte) : (s.setV x b).fb = s.fb := rfl
@[simp] theorem setV_keys (s : State) (x : Reg) (b : Byte) : (s.setV x b).keys = s.keys := rfl
@[simp] theorem setV_wait (s : State) (x : Reg) (b : Byte) : (s.setV x b).wait = s.wait := rfl
@[simp] theorem setV_jf (s : State) (x : Reg) (b : Byte) : (s.setV x b).jf = s.jf := rfl
@[simp] theorem setV_df (s : State) (x : Reg) (b : Byte) : (s.setV x b).df = s.df := rfl
@[simp] theorem setV_fault (s : State) (x : Reg) (b : Byte) : (s.setV x b).fault = s.fault := rfl
@[simp] theorem setV_report (s : State) (x : Reg) (b : Byte) : (s.setV x b).report = s.report := rfl
@[simp] theorem setV_mem (s : State) (x : Reg) (b : Byte) : (s.setV x b).mem = s.mem := rfl
@[simp] theorem setV_present (s : State) (x : Reg) (b : Byte) : (s.setV x b).present = s.present := rfl
@[simp] theorem setV_tone (s : State) (x : Reg) (b : Byte) : (s.setV x b).tone = s.tone := rfl
@[simp] theorem setV_loadReport (s : State) (x : Reg) (b : Byte) : (s.setV x b).loadReport = s.loadReport := rfl
@[simp] theorem setV_settings (s : State) (x : Reg) (b : Byte) : (s.setV x b).settings = s.settings := rfl
@[simp] theorem setV_loadOpen (s : State) (x : Reg) (b : Byte) : (s.setV x b).loadOpen = s.loadOpen := rfl
@[simp] theorem setV_pending (s : State) (x : Reg) (b : Byte) : (s.setV x b).pending = s.pending := rfl
@[simp] theorem setV_feed (s : State) (x : Reg) (b : Byte) : (s.setV x b).feed = s.feed := rfl
@[simp] theorem setV_moves (s : State) (x : Reg) (b : Byte) : (s.setV x b).moves = s.moves := rfl

/-! ### `State.setByte` -/

@[simp] theorem setByte_regs (s : State) (a : Nat) (b : Byte) : (s.setByte a b).regs = s.regs := rfl
@[simp] theorem setByte_i (s : State) (a : Nat) (b : Byte) : (s.setByte a b).i = s.i := rfl
@[simp] theorem setByte_pc (s : State) (a : Nat) (b : Byte) : (s.setByte a b).pc = s.pc := rfl
@[simp] theorem setByte_sp (s : State) (a : Nat) (b : Byte) : (s.setByte a b).sp = s.sp := rfl
@[simp] theorem setByte_stack (s : State) (a : Nat) (b : Byte) : (s.setByte a b).stack = s.stack := rfl
@[simp] theorem setByte_dt (s : State) (a : Nat) (b : Byte) : (s.setByte a b).dt = s.dt := rfl
@[simp] theorem setByte_st (s : State) (a : Nat) (b : Byte) : (s.setByte a b).st = s.st := rfl
@[simp] theorem setByte_fb (s : State) (a : Nat) (b : Byte) : (s.setByte a b).fb = s.fb := rfl
@[simp] theorem setByte_keys (s : State) (a : Nat) (b : Byte) : (s.setByte a b).keys = s.keys := rfl
@[simp] theorem setByte_wait (s : State) (a : Nat) (b : Byte) : (s.setByte a b).wait = s.wait := rfl
@[simp] theorem setByte_jf (s : State) (a : Nat) (b : Byte) : (s.setByte a b).jf = s.jf := rfl
@[simp] theorem setByte_df (s : State) (a : Nat) (b : Byte) : (s.setByte a b).df = s.df := rfl
@[simp] theorem setByte_fault (s : State) (a : Nat) (b : Byte) : (s.setByte a b).fault = s.fault := rfl
@[simp] theorem setByte_report (s : State) (a : Nat) (b : Byte) : (s.setByte a b).report = s.report := rfl
@[simp] theorem setByte_present (s : State) (a : Nat) (b : Byte) : (s.setByte a b).present = s.present := rfl
@[simp] theorem setByte_tone (s : State) (a : Nat) (b : Byte) : (s.setByte a b).tone = s.tone := rfl
@[simp] theorem setByte_loadReport (s : State) (a : Nat) (b : Byte) : (s.setByte a b).loadReport = s.loadReport := rfl
@[simp] theorem setByte_settings (s : State) (a : Nat) (b : Byte) : (s.setByte a b).settings = s.settings := rfl
@[simp] theorem setByte_loadOpen (s : State) (a : Nat) (b : Byte) : (s.setByte a b).loadOpen = s.loadOpen := rfl
@[simp] theorem setByte_pending (s : State) (a : Nat) (b : Byte) : (s.setByte a b).pending = s.pending := rfl
@[simp] theorem setByte_feed (s : State) (a : Nat) (b : Byte) : (s.setByte a b).feed = s.feed := rfl
@[simp] theorem setByte_moves (s : State) (a : Nat) (b : Byte) : (s.setByte a b).moves = s.moves := rfl

/-! ### `State.push` -/

@[simp] theorem push_regs (s : State) (w : Word) : (s.push w).regs = s.regs := rfl
@[simp] theorem push_i (s : State) (w : Word) : (s.push w).i = s.i := rfl
@[simp] theorem push_pc (s : State) (w : Word) : (s.push w).pc = s.pc := rfl
@[simp] theorem push_dt (s : State) (w : Word) : (s.push w).dt = s.dt := rfl
@[simp] theorem push_st (s : State) (w : Word) : (s.push w).st = s.st := rfl
@[simp] theorem push_fb (s : State) (w : Word) : (s.push w).fb = s.fb := rfl
@[simp] theorem push_keys (s : State) (w : Word) : (s.push w).keys = s.keys := rfl
@[simp] theorem push_wait (s : State) (w : Word) : (s.push w).wait = s.wait := rfl
@[simp] theorem push_jf (s : State) (w : Word) : (s.push w).jf = s.jf := rfl
@[simp] theorem push_df (s : State) (w : Word) : (s.push w).df = s.df := rfl
@[simp] theorem push_fault (s : State) (w : Word) : (s.push w).fault = s.fault := rfl
@[simp] theorem push_report (s : State) (w : Word) : (s.push w).report = s.report := rfl
@[simp] theorem push_mem (s : State) (w : Word) : (s.push w).mem = s.mem := rfl
@[simp] theorem push_present (s : State) (w : Word) : (s.push w).present = s.present := rfl
@[simp] theorem push_tone (s : State) (w : Word) : (s.push w).tone = s.tone := rfl
@[simp] theorem push_loadReport (s : State) (w : Word) : (s.push w).loadReport = s.loadReport := rfl
@[simp] theorem push_settings (s : State) (w : Word) : (s.push w).settings = s.settings := rfl
@[simp] theorem push_loadOpen (s : State) (w : Word) : (s.push w).loadOpen = s.loadOpen := rfl
@[simp] theorem push_pending (s : State) (w : Word) : (s.push w).pending = s.pending := rfl
@[simp] theorem push_feed (s : State) (w : Word) : (s.push w).feed = s.feed := rfl
@[simp] theorem push_moves (s : State) (w : Word) : (s.push w).moves = s.moves := rfl

/-! ### `State.setPixel` -/

@[simp] theorem setPixel_regs (s : State) (row : Fin 32) (col : Fin 64) (p : Bool) : (s.setPixel row col p).regs = s.regs := rfl
@[simp] theorem setPixel_i (s : State) (row : Fin 32) (col : Fin 64) (p : Bool) : (s.setPixel row col p).i = s.i := rfl
@[simp] theorem setPixel_pc (s : State) (row : Fin 32) (col : Fin 64) (p : Bool) : (s.setPixel row col p).pc = s.pc := rfl
@[simp] theorem setPixel_sp (s : State) (row : Fin 32) (col : Fin 64) (p : Bool) : (s.setPixel row col p).sp = s.sp := rfl
@[simp] theorem setPixel_stack (s : State) (row : Fin 32) (col : Fin 64) (p : Bool) : (s.setPixel row col p).stack = s.stack := rfl
@[simp] theorem setPixel_dt (s : State) (row : Fin 32) (col : Fin 64) (p : Bool) : (s.setPixel row col p).dt = s.dt := rfl
@[simp] theorem setPixel_st (s : State) (row : Fin 32) (col : Fin 64) (p : Bool) : (s.setPixel row col p).st = s.st := rfl
@[simp] theorem setPixel_keys (s : State) (row : Fin 32) (col : Fin 64) (p : Bool) : (s.setPixel row col p).keys = s.keys := rfl
@[simp] theorem setPixel_wait (s : State) (row : Fin 32) (col : Fin 64) (p : Bool) : (s.setPixel row col p).wait = s.wait := rfl
@[simp] theorem setPixel_jf (s : State) (row : Fin 32) (col : Fin 64) (p : Bool) : (s.setPixel row col p).jf = s.jf := rfl
@[simp] theorem setPixel_df (s : State) (row : Fin 32) (col : Fin 64) (p : Bool) : (s.setPixel row col p).df = s.df := rfl
@[simp] theorem setPixel_fault (s : State) (row : Fin 32) (col : Fin 64) (p : Bool) : (s.setPixel row col p).fault = s.fault := rfl
@[simp] theorem setPixel_report (s : State) (row : Fin 32) (col : Fin 64) (p : Bool) : (s.setPixel row col p).report = s.report := rfl
@[simp] theorem setPixel_mem (s : State) (row : Fin 32) (col : Fin 64) (p : Bool) : (s.setPixel row col p).mem = s.mem := rfl
@[simp] theorem setPixel_present (s : State) (row : Fin 32) (col : Fin 64) (p : Bool) : (s.setPixel row col p).present = s.present := rfl
@[simp] theorem setPixel_tone (s : State) (row : Fin 32) (col : Fin 64) (p : Bool) : (s.setPixel row col p).tone = s.tone := rfl
@[simp] theorem setPixel_loadReport (s : State) (row : Fin 32) (col : Fin 64) (p : Bool) : (s.setPixel row col p).loadReport = s.loadReport := rfl
@[simp] theorem setPixel_settings (s : State) (row : Fin 32) (col : Fin 64) (p : Bool) : (s.setPixel row col p).settings = s.settings := rfl
@[simp] theorem setPixel_loadOpen (s : State) (row : Fin 32) (col : Fin 64) (p : Bool) : (s.setPixel row col p).loadOpen = s.loadOpen := rfl
@[simp] theorem setPixel_pending (s : State) (row : Fin 32) (col : Fin 64) (p : Bool) : (s.setPixel row col p).pending = s.pending := rfl
@[simp] theorem setPixel_feed (s : State) (row : Fin 32) (col : Fin 64) (p : Bool) : (s.setPixel row col p).feed = s.feed := rfl
@[simp] theorem setPixel_moves (s : State) (row : Fin 32) (col : Fin 64) (p : Bool) : (s.setPixel row col p).moves = s.moves := rfl

/-! ### `State.clearScreen` -/

@[simp] theorem clearScreen_regs (s : State) : s.clearScreen.regs = s.regs := rfl
@[simp] theorem clearScreen_i (s : State) : s.clearScreen.i = s.i := rfl
@[simp] theorem clearScreen_pc (s : State) : s.clearScreen.pc = s.pc := rfl
@[simp] theorem clearScreen_sp (s : State) : s.clearScreen.sp = s.sp := rfl
@[simp] theorem clearScreen_stack (s : State) : s.clearScreen.stack = s.stack := rfl
@[simp] theorem clearScreen_dt (s : State) : s.clearScreen.dt = s.dt := rfl
@[simp] theorem clearScreen_st (s : State) : s.clearScreen.st = s.st := rfl
@[simp] theorem clearScreen_keys (s : State) : s.clearScreen.keys = s.keys := rfl
@[simp] theorem clearScreen_wait (s : State) : s.clearScreen.wait = s.wait := rfl
@[simp] theorem clearScreen_jf (s : State) : s.clearScreen.jf = s.jf := rfl
@[simp] theorem clearScreen_df (s : State) : s.clearScreen.df = s.df := rfl
@[simp] theorem clearScreen_fault (s : State) : s.clearScreen.fault = s.fault := rfl
@[simp] theorem clearScreen_report (s : State) : s.clearScreen.report = s.report := rfl
@[simp] theorem clearScreen_mem (s : State) : s.clearScreen.mem = s.mem := rfl
@[simp] theorem clearScreen_present (s : State) : s.clearScreen.present = s.present := rfl
@[simp] theorem clearScreen_tone (s : State) : s.clearScreen.tone = s.tone := rfl
@[simp] theorem clearScreen_loadReport (s : State) : s.clearScreen.loadReport = s.loadReport := rfl
@[simp] theorem clearScreen_settings (s : State) : s.clearScreen.settings = s.settings := rfl
@[simp] theorem clearScreen_loadOpen (s : State) : s.clearScreen.loadOpen = s.loadOpen := rfl
@[simp] theorem clearScreen_pending (s : State) : s.clearScreen.pending = s.pending := rfl
@[simp] theorem clearScreen_feed (s : State) : s.clearScreen.feed = s.feed := rfl
@[simp] theorem clearScreen_moves (s : State) : s.clearScreen.moves = s.moves := rfl

/-! ### `State.raise` -/

@[simp] theorem raise_regs (s : State) (c : FatalCause) : (s.raise c).regs = s.regs := rfl
@[simp] theorem raise_i (s : State) (c : FatalCause) : (s.raise c).i = s.i := rfl
@[simp] theorem raise_pc (s : State) (c : FatalCause) : (s.raise c).pc = s.pc := rfl
@[simp] theorem raise_sp (s : State) (c : FatalCause) : (s.raise c).sp = s.sp := rfl
@[simp] theorem raise_stack (s : State) (c : FatalCause) : (s.raise c).stack = s.stack := rfl
@[simp] theorem raise_dt (s : State) (c : FatalCause) : (s.raise c).dt = s.dt := rfl
@[simp] theorem raise_st (s : State) (c : FatalCause) : (s.raise c).st = s.st := rfl
@[simp] theorem raise_fb (s : State) (c : FatalCause) : (s.raise c).fb = s.fb := rfl
@[simp] theorem raise_keys (s : State) (c : FatalCause) : (s.raise c).keys = s.keys := rfl
@[simp] theorem raise_wait (s : State) (c : FatalCause) : (s.raise c).wait = s.wait := rfl
@[simp] theorem raise_jf (s : State) (c : FatalCause) : (s.raise c).jf = s.jf := rfl
@[simp] theorem raise_df (s : State) (c : FatalCause) : (s.raise c).df = s.df := rfl
@[simp] theorem raise_report (s : State) (c : FatalCause) : (s.raise c).report = s.report := rfl
@[simp] theorem raise_mem (s : State) (c : FatalCause) : (s.raise c).mem = s.mem := rfl
@[simp] theorem raise_present (s : State) (c : FatalCause) : (s.raise c).present = s.present := rfl
@[simp] theorem raise_tone (s : State) (c : FatalCause) : (s.raise c).tone = s.tone := rfl
@[simp] theorem raise_loadReport (s : State) (c : FatalCause) : (s.raise c).loadReport = s.loadReport := rfl
@[simp] theorem raise_settings (s : State) (c : FatalCause) : (s.raise c).settings = s.settings := rfl
@[simp] theorem raise_loadOpen (s : State) (c : FatalCause) : (s.raise c).loadOpen = s.loadOpen := rfl
@[simp] theorem raise_pending (s : State) (c : FatalCause) : (s.raise c).pending = s.pending := rfl
@[simp] theorem raise_feed (s : State) (c : FatalCause) : (s.raise c).feed = s.feed := rfl
@[simp] theorem raise_moves (s : State) (c : FatalCause) : (s.raise c).moves = s.moves := rfl

/-! ### `State.reportNotImplemented` -/

@[simp] theorem reportNotImplemented_regs (s : State) (w : Word) : (s.reportNotImplemented w).regs = s.regs := rfl
@[simp] theorem reportNotImplemented_i (s : State) (w : Word) : (s.reportNotImplemented w).i = s.i := rfl
@[simp] theorem reportNotImplemented_pc (s : State) (w : Word) : (s.reportNotImplemented w).pc = s.pc := rfl
@[simp] theorem reportNotImplemented_sp (s : State) (w : Word) : (s.reportNotImplemented w).sp = s.sp := rfl
@[simp] theorem reportNotImplemented_stack (s : State) (w : Word) : (s.reportNotImplemented w).stack = s.stack := rfl
@[simp] theorem reportNotImplemented_dt (s : State) (w : Word) : (s.reportNotImplemented w).dt = s.dt := rfl
@[simp] theorem reportNotImplemented_st (s : State) (w : Word) : (s.reportNotImplemented w).st = s.st := rfl
@[simp] theorem reportNotImplemented_fb (s : State) (w : Word) : (s.reportNotImplemented w).fb = s.fb := rfl
@[simp] theorem reportNotImplemented_keys (s : State) (w : Word) : (s.reportNotImplemented w).keys = s.keys := rfl
@[simp] theorem reportNotImplemented_wait (s : State) (w : Word) : (s.reportNotImplemented w).wait = s.wait := rfl
@[simp] theorem reportNotImplemented_jf (s : State) (w : Word) : (s.reportNotImplemented w).jf = s.jf := rfl
@[simp] theorem reportNotImplemented_df (s : State) (w : Word) : (s.reportNotImplemented w).df = s.df := rfl
@[simp] theorem reportNotImplemented_fault (s : State) (w : Word) : (s.reportNotImplemented w).fault = s.fault := rfl
@[simp] theorem reportNotImplemented_mem (s : State) (w : Word) : (s.reportNotImplemented w).mem = s.mem := rfl
@[simp] theorem reportNotImplemented_present (s : State) (w : Word) : (s.reportNotImplemented w).present = s.present := rfl
@[simp] theorem reportNotImplemented_tone (s : State) (w : Word) : (s.reportNotImplemented w).tone = s.tone := rfl
@[simp] theorem reportNotImplemented_loadReport (s : State) (w : Word) : (s.reportNotImplemented w).loadReport = s.loadReport := rfl
@[simp] theorem reportNotImplemented_settings (s : State) (w : Word) : (s.reportNotImplemented w).settings = s.settings := rfl
@[simp] theorem reportNotImplemented_loadOpen (s : State) (w : Word) : (s.reportNotImplemented w).loadOpen = s.loadOpen := rfl
@[simp] theorem reportNotImplemented_pending (s : State) (w : Word) : (s.reportNotImplemented w).pending = s.pending := rfl
@[simp] theorem reportNotImplemented_feed (s : State) (w : Word) : (s.reportNotImplemented w).feed = s.feed := rfl
@[simp] theorem reportNotImplemented_moves (s : State) (w : Word) : (s.reportNotImplemented w).moves = s.moves := rfl

/-! ### `State.storeWord` -/

@[simp] theorem storeWord_regs (s : State) (w : Word) : (s.storeWord w).regs = s.regs := rfl
@[simp] theorem storeWord_i (s : State) (w : Word) : (s.storeWord w).i = s.i := rfl
@[simp] theorem storeWord_pc (s : State) (w : Word) : (s.storeWord w).pc = s.pc := rfl
@[simp] theorem storeWord_sp (s : State) (w : Word) : (s.storeWord w).sp = s.sp := rfl
@[simp] theorem storeWord_stack (s : State) (w : Word) : (s.storeWord w).stack = s.stack := rfl
@[simp] theorem storeWord_dt (s : State) (w : Word) : (s.storeWord w).dt = s.dt := rfl
@[simp] theorem storeWord_st (s : State) (w : Word) : (s.storeWord w).st = s.st := rfl
@[simp] theorem storeWord_fb (s : State) (w : Word) : (s.storeWord w).fb = s.fb := rfl
@[simp] theorem storeWord_keys (s : State) (w : Word) : (s.storeWord w).keys = s.keys := rfl
@[simp] theorem storeWord_wait (s : State) (w : Word) : (s.storeWord w).wait = s.wait := rfl
@[simp] theorem storeWord_jf (s : State) (w : Word) : (s.storeWord w).jf = s.jf := rfl
@[simp] theorem storeWord_df (s : State) (w : Word) : (s.storeWord w).df = s.df := rfl
@[simp] theorem storeWord_fault (s : State) (w : Word) : (s.storeWord w).fault = s.fault := rfl
@[simp] theorem storeWord_report (s : State) (w : Word) : (s.storeWord w).report = s.report := rfl
@[simp] theorem storeWord_present (s : State) (w : Word) : (s.storeWord w).present = s.present := rfl
@[simp] theorem storeWord_tone (s : State) (w : Word) : (s.storeWord w).tone = s.tone := rfl
@[simp] theorem storeWord_loadReport (s : State) (w : Word) : (s.storeWord w).loadReport = s.loadReport := rfl
@[simp] theorem storeWord_settings (s : State) (w : Word) : (s.storeWord w).settings = s.settings := rfl
@[simp] theorem storeWord_loadOpen (s : State) (w : Word) : (s.storeWord w).loadOpen = s.loadOpen := rfl
@[simp] theorem storeWord_pending (s : State) (w : Word) : (s.storeWord w).pending = s.pending := rfl
@[simp] theorem storeWord_feed (s : State) (w : Word) : (s.storeWord w).feed = s.feed := rfl
@[simp] theorem storeWord_moves (s : State) (w : Word) : (s.storeWord w).moves = s.moves := rfl

/-! ### `State.presentStep` -/

@[simp] theorem presentStep_regs (s : State) : s.presentStep.regs = s.regs := rfl
@[simp] theorem presentStep_i (s : State) : s.presentStep.i = s.i := rfl
@[simp] theorem presentStep_pc (s : State) : s.presentStep.pc = s.pc := rfl
@[simp] theorem presentStep_sp (s : State) : s.presentStep.sp = s.sp := rfl
@[simp] theorem presentStep_stack (s : State) : s.presentStep.stack = s.stack := rfl
@[simp] theorem presentStep_dt (s : State) : s.presentStep.dt = s.dt := rfl
@[simp] theorem presentStep_st (s : State) : s.presentStep.st = s.st := rfl
@[simp] theorem presentStep_fb (s : State) : s.presentStep.fb = s.fb := rfl
@[simp] theorem presentStep_keys (s : State) : s.presentStep.keys = s.keys := rfl
@[simp] theorem presentStep_wait (s : State) : s.presentStep.wait = s.wait := rfl
@[simp] theorem presentStep_jf (s : State) : s.presentStep.jf = s.jf := rfl
@[simp] theorem presentStep_fault (s : State) : s.presentStep.fault = s.fault := rfl
@[simp] theorem presentStep_report (s : State) : s.presentStep.report = s.report := rfl
@[simp] theorem presentStep_mem (s : State) : s.presentStep.mem = s.mem := rfl
@[simp] theorem presentStep_tone (s : State) : s.presentStep.tone = s.tone := rfl
@[simp] theorem presentStep_loadReport (s : State) : s.presentStep.loadReport = s.loadReport := rfl
@[simp] theorem presentStep_settings (s : State) : s.presentStep.settings = s.settings := rfl
@[simp] theorem presentStep_loadOpen (s : State) : s.presentStep.loadOpen = s.loadOpen := rfl
@[simp] theorem presentStep_pending (s : State) : s.presentStep.pending = s.pending := rfl
@[simp] theorem presentStep_feed (s : State) : s.presentStep.feed = s.feed := rfl
@[simp] theorem presentStep_moves (s : State) : s.presentStep.moves = s.moves := rfl

/-! ### `State.toneStep` -/

@[simp] theorem toneStep_regs (s : State) : s.toneStep.regs = s.regs := rfl
@[simp] theorem toneStep_i (s : State) : s.toneStep.i = s.i := rfl
@[simp] theorem toneStep_pc (s : State) : s.toneStep.pc = s.pc := rfl
@[simp] theorem toneStep_sp (s : State) : s.toneStep.sp = s.sp := rfl
@[simp] theorem toneStep_stack (s : State) : s.toneStep.stack = s.stack := rfl
@[simp] theorem toneStep_dt (s : State) : s.toneStep.dt = s.dt := rfl
@[simp] theorem toneStep_st (s : State) : s.toneStep.st = s.st := rfl
@[simp] theorem toneStep_fb (s : State) : s.toneStep.fb = s.fb := rfl
@[simp] theorem toneStep_keys (s : State) : s.toneStep.keys = s.keys := rfl
@[simp] theorem toneStep_wait (s : State) : s.toneStep.wait = s.wait := rfl
@[simp] theorem toneStep_jf (s : State) : s.toneStep.jf = s.jf := rfl
@[simp] theorem toneStep_df (s : State) : s.toneStep.df = s.df := rfl
@[simp] theorem toneStep_fault (s : State) : s.toneStep.fault = s.fault := rfl
@[simp] theorem toneStep_report (s : State) : s.toneStep.report = s.report := rfl
@[simp] theorem toneStep_mem (s : State) : s.toneStep.mem = s.mem := rfl
@[simp] theorem toneStep_present (s : State) : s.toneStep.present = s.present := rfl
@[simp] theorem toneStep_loadReport (s : State) : s.toneStep.loadReport = s.loadReport := rfl
@[simp] theorem toneStep_settings (s : State) : s.toneStep.settings = s.settings := rfl
@[simp] theorem toneStep_loadOpen (s : State) : s.toneStep.loadOpen = s.loadOpen := rfl
@[simp] theorem toneStep_pending (s : State) : s.toneStep.pending = s.pending := rfl
@[simp] theorem toneStep_feed (s : State) : s.toneStep.feed = s.feed := rfl
@[simp] theorem toneStep_moves (s : State) : s.toneStep.moves = s.moves := rfl

/-! ### `State.setResultThenFlag` -/

@[simp] theorem setResultThenFlag_i (s : State) (x : Reg) (r f : Byte) : (s.setResultThenFlag x r f).i = s.i := rfl
@[simp] theorem setResultThenFlag_pc (s : State) (x : Reg) (r f : Byte) : (s.setResultThenFlag x r f).pc = s.pc := rfl
@[simp] theorem setResultThenFlag_sp (s : State) (x : Reg) (r f : Byte) : (s.setResultThenFlag x r f).sp = s.sp := rfl
@[simp] theorem setResultThenFlag_stack (s : State) (x : Reg) (r f : Byte) : (s.setResultThenFlag x r f).stack = s.stack := rfl
@[simp] theorem setResultThenFlag_dt (s : State) (x : Reg) (r f : Byte) : (s.setResultThenFlag x r f).dt = s.dt := rfl
@[simp] theorem setResultThenFlag_st (s : State) (x : Reg) (r f : Byte) : (s.setResultThenFlag x r f).st = s.st := rfl
@[simp] theorem setResultThenFlag_fb (s : State) (x : Reg) (r f : Byte) : (s.setResultThenFlag x r f).fb = s.fb := rfl
@[simp] theorem setResultThenFlag_keys (s : State) (x : Reg) (r f : Byte) : (s.setResultThenFlag x r f).keys = s.keys := rfl
@[simp] theorem setResultThenFlag_wait (s : State) (x : Reg) (r f : Byte) : (s.setResultThenFlag x r f).wait = s.wait := rfl
@[simp] theorem setResultThenFlag_jf (s : State) (x : Reg) (r f : Byte) : (s.setResultThenFlag x r f).jf = s.jf := rfl
@[simp] theorem setResultThenFlag_df (s : State) (x : Reg) (r f : Byte) : (s.setResultThenFlag x r f).df = s.df := rfl
@[simp] theorem setResultThenFlag_fault (s : State) (x : Reg) (r f : Byte) : (s.setResultThenFlag x r f).fault = s.fault := rfl
@[simp] theorem setResultThenFlag_report (s : State) (x : Reg) (r f : Byte) : (s.setResultThenFlag x r f).report = s.report := rfl
@[simp] theorem setResultThenFlag_mem (s : State) (x : Reg) (r f : Byte) : (s.setResultThenFlag x r f).mem = s.mem := rfl
@[simp] theorem setResultThenFlag_present (s : State) (x : Reg) (r f : Byte) : (s.setResultThenFlag x r f).present = s.present := rfl
@[simp] theorem setResultThenFlag_tone (s : State) (x : Reg) (r f : Byte) : (s.setResultThenFlag x r f).tone = s.tone := rfl
@[simp] theorem setResultThenFlag_loadReport (s : State) (x : Reg) (r f : Byte) : (s.setResultThenFlag x r f).loadReport = s.loadReport := rfl
@[simp] theorem setResultThenFlag_settings (s : State) (x : Reg) (r f : Byte) : (s.setResultThenFlag x r f).settings = s.settings := rfl
@[simp] theorem setResultThenFlag_loadOpen (s : State) (x : Reg) (r f : Byte) : (s.setResultThenFlag x r f).loadOpen = s.loadOpen := rfl
@[simp] theorem setResultThenFlag_pending (s : State) (x : Reg) (r f : Byte) : (s.setResultThenFlag x r f).pending = s.pending := rfl
@[simp] theorem setResultThenFlag_feed (s : State) (x : Reg) (r f : Byte) : (s.setResultThenFlag x r f).feed = s.feed := rfl
@[simp] theorem setResultThenFlag_moves (s : State) (x : Reg) (r f : Byte) : (s.setResultThenFlag x r f).moves = s.moves := rfl

/-! ### `State.zeroFlagThenCombine` -/

@[simp] theorem zeroFlagThenCombine_i (s : State) (x y : Reg) (op : Byte → Byte → Byte) : (s.zeroFlagThenCombine x y op).i = s.i := rfl
@[simp] theorem zeroFlagThenCombine_pc (s : State) (x y : Reg) (op : Byte → Byte → Byte) : (s.zeroFlagThenCombine x y op).pc = s.pc := rfl
@[simp] theorem zeroFlagThenCombine_sp (s : State) (x y : Reg) (op : Byte → Byte → Byte) : (s.zeroFlagThenCombine x y op).sp = s.sp := rfl
@[simp] theorem zeroFlagThenCombine_stack (s : State) (x y : Reg) (op : Byte → Byte → Byte) : (s.zeroFlagThenCombine x y op).stack = s.stack := rfl
@[simp] theorem zeroFlagThenCombine_dt (s : State) (x y : Reg) (op : Byte → Byte → Byte) : (s.zeroFlagThenCombine x y op).dt = s.dt := rfl
@[simp] theorem zeroFlagThenCombine_st (s : State) (x y : Reg) (op : Byte → Byte → Byte) : (s.zeroFlagThenCombine x y op).st = s.st := rfl
@[simp] theorem zeroFlagThenCombine_fb (s : State) (x y : Reg) (op : Byte → Byte → Byte) : (s.zeroFlagThenCombine x y op).fb = s.fb := rfl
@[simp] theorem zeroFlagThenCombine_keys (s : State) (x y : Reg) (op : Byte → Byte → Byte) : (s.zeroFlagThenCombine x y op).keys = s.keys := rfl
@[simp] theorem zeroFlagThenCombine_wait (s : State) (x y : Reg) (op : Byte → Byte → Byte) : (s.zeroFlagThenCombine x y op).wait = s.wait := rfl
@[simp] theorem zeroFlagThenCombine_jf (s : State) (x y : Reg) (op : Byte → Byte → Byte) : (s.zeroFlagThenCombine x y op).jf = s.jf := rfl
@[simp] theorem zeroFlagThenCombine_df (s : State) (x y : Reg) (op : Byte → Byte → Byte) : (s.zeroFlagThenCombine x y op).df = s.df := rfl
@[simp] theorem zeroFlagThenCombine_fault (s : State) (x y : Reg) (op : Byte → Byte → Byte) : (s.zeroFlagThenCombine x y op).fault = s.fault := rfl
@[simp] theorem zeroFlagThenCombine_report (s : State) (x y : Reg) (op : Byte → Byte → Byte) : (s.zeroFlagThenCombine x y op).report = s.report := rfl
@[simp] theorem zeroFlagThenCombine_mem (s : State) (x y : Reg) (op : Byte → Byte → Byte) : (s.zeroFlagThenCombine x y op).mem = s.mem := rfl
@[simp] theorem zeroFlagThenCombine_present (s : State) (x y : Reg) (op : Byte → Byte → Byte) : (s.zeroFlagThenCombine x y op).present = s.present := rfl
@[simp] theorem zeroFlagThenCombine_tone (s : State) (x y : Reg) (op : Byte → Byte → Byte) : (s.zeroFlagThenCombine x y op).tone = s.tone := rfl
@[simp] theorem zeroFlagThenCombine_loadReport (s : State) (x y : Reg) (op : Byte → Byte → Byte) : (s.zeroFlagThenCombine x y op).loadReport = s.loadReport := rfl
@[simp] theorem zeroFlagThenCombine_settings (s : State) (x y : Reg) (op : Byte → Byte → Byte) : (s.zeroFlagThenCombine x y op).settings = s.settings := rfl
@[simp] theorem zeroFlagThenCombine_loadOpen (s : State) (x y : Reg) (op : Byte → Byte → Byte) : (s.zeroFlagThenCombine x y op).loadOpen = s.loadOpen := rfl
@[simp] theorem zeroFlagThenCombine_pending (s : State) (x y : Reg) (op : Byte → Byte → Byte) : (s.zeroFlagThenCombine x y op).pending = s.pending := rfl
@[simp] theorem zeroFlagThenCombine_feed (s : State) (x y : Reg) (op : Byte → Byte → Byte) : (s.zeroFlagThenCombine x y op).feed = s.feed := rfl
@[simp] theorem zeroFlagThenCombine_moves (s : State) (x y : Reg) (op : Byte → Byte → Byte) : (s.zeroFlagThenCombine x y op).moves = s.moves := rfl

/-! ### `State.advance` -/

@[simp] theorem advance_regs (s : State) : s.advance.regs = s.regs := by unfold State.advance; split <;> rfl
@[simp] theorem advance_i (s : State) : s.advance.i = s.i := by unfold State.advance; split <;> rfl
@[simp] theorem advance_sp (s : State) : s.advance.sp = s.sp := by unfold State.advance; split <;> rfl
@[simp] theorem advance_stack (s : State) : s.advance.stack = s.stack := by unfold State.advance; split <;> rfl
@[simp] theorem advance_dt (s : State) : s.advance.dt = s.dt := by unfold State.advance; split <;> rfl
@[simp] theorem advance_st (s : State) : s.advance.st = s.st := by unfold State.advance; split <;> rfl
@[simp] theorem advance_fb (s : State) : s.advance.fb = s.fb := by unfold State.advance; split <;> rfl
@[simp] theorem advance_keys (s : State) : s.advance.keys = s.keys := by unfold State.advance; split <;> rfl
@[simp] theorem advance_wait (s : State) : s.advance.wait = s.wait := by unfold State.advance; split <;> rfl
@[simp] theorem advance_jf (s : State) : s.advance.jf = s.jf := by unfold State.advance; split <;> rfl
@[simp] theorem advance_df (s : State) : s.advance.df = s.df := by unfold State.advance; split <;> rfl
@[simp] theorem advance_fault (s : State) : s.advance.fault = s.fault := by unfold State.advance; split <;> rfl
@[simp] theorem advance_report (s : State) : s.advance.report = s.report := by unfold State.advance; split <;> rfl
@[simp] theorem advance_mem (s : State) : s.advance.mem = s.mem := by unfold State.advance; split <;> rfl
@[simp] theorem advance_present (s : State) : s.advance.present = s.present := by unfold State.advance; split <;> rfl
@[simp] theorem advance_tone (s : State) : s.advance.tone = s.tone := by unfold State.advance; split <;> rfl
@[simp] theorem advance_loadReport (s : State) : s.advance.loadReport = s.loadReport := by unfold State.advance; split <;> rfl
@[simp] theorem advance_settings (s : State) : s.advance.settings = s.settings := by unfold State.advance; split <;> rfl
@[simp] theorem advance_loadOpen (s : State) : s.advance.loadOpen = s.loadOpen := by unfold State.advance; split <;> rfl
@[simp] theorem advance_pending (s : State) : s.advance.pending = s.pending := by unfold State.advance; split <;> rfl
@[simp] theorem advance_feed (s : State) : s.advance.feed = s.feed := by unfold State.advance; split <;> rfl
@[simp] theorem advance_moves (s : State) : s.advance.moves = s.moves := by unfold State.advance; split <;> rfl

/-! ### `State.retire` -/

@[simp] theorem retire_regs (s : State) (j : Bool) : (s.retire j).regs = s.regs := by simp [State.retire]
@[simp] theorem retire_i (s : State) (j : Bool) : (s.retire j).i = s.i := by simp [State.retire]
@[simp] theorem retire_sp (s : State) (j : Bool) : (s.retire j).sp = s.sp := by simp [State.retire]
@[simp] theorem retire_stack (s : State) (j : Bool) : (s.retire j).stack = s.stack := by simp [State.retire]
@[simp] theorem retire_dt (s : State) (j : Bool) : (s.retire j).dt = s.dt := by simp [State.retire]
@[simp] theorem retire_st (s : State) (j : Bool) : (s.retire j).st = s.st := by simp [State.retire]
@[simp] theorem retire_fb (s : State) (j : Bool) : (s.retire j).fb = s.fb := by simp [State.retire]
@[simp] theorem retire_keys (s : State) (j : Bool) : (s.retire j).keys = s.keys := by simp [State.retire]
@[simp] theorem retire_wait (s : State) (j : Bool) : (s.retire j).wait = s.wait := by simp [State.retire]
@[simp] theorem retire_df (s : State) (j : Bool) : (s.retire j).df = s.df := by simp [State.retire]
@[simp] theorem retire_fault (s : State) (j : Bool) : (s.retire j).fault = s.fault := by simp [State.retire]
@[simp] theorem retire_report (s : State) (j : Bool) : (s.retire j).report = s.report := by simp [State.retire]
@[simp] theorem retire_mem (s : State) (j : Bool) : (s.retire j).mem = s.mem := by simp [State.retire]
@[simp] theorem retire_present (s : State) (j : Bool) : (s.retire j).present = s.present := by simp [State.retire]
@[simp] theorem retire_tone (s : State) (j : Bool) : (s.retire j).tone = s.tone := by simp [State.retire]
@[simp] theorem retire_loadReport (s : State) (j : Bool) : (s.retire j).loadReport = s.loadReport := by simp [State.retire]
@[simp] theorem retire_settings (s : State) (j : Bool) : (s.retire j).settings = s.settings := by simp [State.retire]
@[simp] theorem retire_loadOpen (s : State) (j : Bool) : (s.retire j).loadOpen = s.loadOpen := by simp [State.retire]
@[simp] theorem retire_pending (s : State) (j : Bool) : (s.retire j).pending = s.pending := by simp [State.retire]
@[simp] theorem retire_feed (s : State) (j : Bool) : (s.retire j).feed = s.feed := by simp [State.retire]
@[simp] theorem retire_moves (s : State) (j : Bool) : (s.retire j).moves = s.moves := by simp [State.retire]

/-! ### `State.sampleKeys` -/

@[simp] theorem sampleKeys_regs (s : State) : s.sampleKeys.regs = s.regs := by unfold State.sampleKeys; split <;> rfl
@[simp] theorem sampleKeys_i (s : State) : s.sampleKeys.i = s.i := by unfold State.sampleKeys; split <;> rfl
@[simp] theorem sampleKeys_pc (s : State) : s.sampleKeys.pc = s.pc := by unfold State.sampleKeys; split <;> rfl
@[simp] theorem sampleKeys_sp (s : State) : s.sampleKeys.sp = s.sp := by unfold State.sampleKeys; split <;> rfl
@[simp] theorem sampleKeys_stack (s : State) : s.sampleKeys.stack = s.stack := by unfold State.sampleKeys; split <;> rfl
@[simp] theorem sampleKeys_dt (s : State) : s.sampleKeys.dt = s.dt := by unfold State.sampleKeys; split <;> rfl
@[simp] theorem sampleKeys_st (s : State) : s.sampleKeys.st = s.st := by unfold State.sampleKeys; split <;> rfl
@[simp] theorem sampleKeys_fb (s : State) : s.sampleKeys.fb = s.fb := by unfold State.sampleKeys; split <;> rfl
@[simp] theorem sampleKeys_wait (s : State) : s.sampleKeys.wait = s.wait := by unfold State.sampleKeys; split <;> rfl
@[simp] theorem sampleKeys_jf (s : State) : s.sampleKeys.jf = s.jf := by unfold State.sampleKeys; split <;> rfl
@[simp] theorem sampleKeys_df (s : State) : s.sampleKeys.df = s.df := by unfold State.sampleKeys; split <;> rfl
@[simp] theorem sampleKeys_fault (s : State) : s.sampleKeys.fault = s.fault := by unfold State.sampleKeys; split <;> rfl
@[simp] theorem sampleKeys_report (s : State) : s.sampleKeys.report = s.report := by unfold State.sampleKeys; split <;> rfl
@[simp] theorem sampleKeys_mem (s : State) : s.sampleKeys.mem = s.mem := by unfold State.sampleKeys; split <;> rfl
@[simp] theorem sampleKeys_present (s : State) : s.sampleKeys.present = s.present := by unfold State.sampleKeys; split <;> rfl
@[simp] theorem sampleKeys_tone (s : State) : s.sampleKeys.tone = s.tone := by unfold State.sampleKeys; split <;> rfl
@[simp] theorem sampleKeys_loadReport (s : State) : s.sampleKeys.loadReport = s.loadReport := by unfold State.sampleKeys; split <;> rfl
@[simp] theorem sampleKeys_settings (s : State) : s.sampleKeys.settings = s.settings := by unfold State.sampleKeys; split <;> rfl
@[simp] theorem sampleKeys_loadOpen (s : State) : s.sampleKeys.loadOpen = s.loadOpen := by unfold State.sampleKeys; split <;> rfl
@[simp] theorem sampleKeys_pending (s : State) : s.sampleKeys.pending = s.pending := by unfold State.sampleKeys; split <;> rfl
@[simp] theorem sampleKeys_feed (s : State) : s.sampleKeys.feed = s.feed := by unfold State.sampleKeys; split <;> rfl
@[simp] theorem sampleKeys_moves (s : State) : s.sampleKeys.moves = s.moves := by unfold State.sampleKeys; split <;> rfl

/-! ### `State.timerStep` -/

@[simp] theorem timerStep_regs (s : State) : s.timerStep.regs = s.regs := by unfold State.timerStep; split <;> rfl
@[simp] theorem timerStep_i (s : State) : s.timerStep.i = s.i := by unfold State.timerStep; split <;> rfl
@[simp] theorem timerStep_pc (s : State) : s.timerStep.pc = s.pc := by unfold State.timerStep; split <;> rfl
@[simp] theorem timerStep_sp (s : State) : s.timerStep.sp = s.sp := by unfold State.timerStep; split <;> rfl
@[simp] theorem timerStep_stack (s : State) : s.timerStep.stack = s.stack := by unfold State.timerStep; split <;> rfl
@[simp] theorem timerStep_fb (s : State) : s.timerStep.fb = s.fb := by unfold State.timerStep; split <;> rfl
@[simp] theorem timerStep_keys (s : State) : s.timerStep.keys = s.keys := by unfold State.timerStep; split <;> rfl
@[simp] theorem timerStep_wait (s : State) : s.timerStep.wait = s.wait := by unfold State.timerStep; split <;> rfl
@[simp] theorem timerStep_jf (s : State) : s.timerStep.jf = s.jf := by unfold State.timerStep; split <;> rfl
@[simp] theorem timerStep_df (s : State) : s.timerStep.df = s.df := by unfold State.timerStep; split <;> rfl
@[simp] theorem timerStep_fault (s : State) : s.timerStep.fault = s.fault := by unfold State.timerStep; split <;> rfl
@[simp] theorem timerStep_report (s : State) : s.timerStep.report = s.report := by unfold State.timerStep; split <;> rfl
@[simp] theorem timerStep_mem (s : State) : s.timerStep.mem = s.mem := by unfold State.timerStep; split <;> rfl
@[simp] theorem timerStep_present (s : State) : s.timerStep.present = s.present := by unfold State.timerStep; split <;> rfl
@[simp] theorem timerStep_tone (s : State) : s.timerStep.tone = s.tone := by unfold State.timerStep; split <;> rfl
@[simp] theorem timerStep_loadReport (s : State) : s.timerStep.loadReport = s.loadReport := by unfold State.timerStep; split <;> rfl
@[simp] theorem timerStep_settings (s : State) : s.timerStep.settings = s.settings := by unfold State.timerStep; split <;> rfl
@[simp] theorem timerStep_loadOpen (s : State) : s.timerStep.loadOpen = s.loadOpen := by unfold State.timerStep; split <;> rfl
@[simp] theorem timerStep_pending (s : State) : s.timerStep.pending = s.pending := by unfold State.timerStep; split <;> rfl
@[simp] theorem timerStep_feed (s : State) : s.timerStep.feed = s.feed := by unfold State.timerStep; split <;> rfl
@[simp] theorem timerStep_moves (s : State) : s.timerStep.moves = s.moves := by unfold State.timerStep; split <;> rfl

/-! ### `State.takeNextMove` -/

@[simp] theorem takeNextMove_regs (s : State) : s.takeNextMove.regs = s.regs := by unfold State.takeNextMove; split <;> rfl
@[simp] theorem takeNextMove_i (s : State) : s.takeNextMove.i = s.i := by unfold State.takeNextMove; split <;> rfl
@[simp] theorem takeNextMove_pc (s : State) : s.takeNextMove.pc = s.pc := by unfold State.takeNextMove; split <;> rfl
@[simp] theorem takeNextMove_sp (s : State) : s.takeNextMove.sp = s.sp := by unfold State.takeNextMove; split <;> rfl
@[simp] theorem takeNextMove_stack (s : State) : s.takeNextMove.stack = s.stack := by unfold State.takeNextMove; split <;> rfl
@[simp] theorem takeNextMove_dt (s : State) : s.takeNextMove.dt = s.dt := by unfold State.takeNextMove; split <;> rfl
@[simp] theorem takeNextMove_st (s : State) : s.takeNextMove.st = s.st := by unfold State.takeNextMove; split <;> rfl
@[simp] theorem takeNextMove_fb (s : State) : s.takeNextMove.fb = s.fb := by unfold State.takeNextMove; split <;> rfl
@[simp] theorem takeNextMove_keys (s : State) : s.takeNextMove.keys = s.keys := by unfold State.takeNextMove; split <;> rfl
@[simp] theorem takeNextMove_wait (s : State) : s.takeNextMove.wait = s.wait := by unfold State.takeNextMove; split <;> rfl
@[simp] theorem takeNextMove_jf (s : State) : s.takeNextMove.jf = s.jf := by unfold State.takeNextMove; split <;> rfl
@[simp] theorem takeNextMove_df (s : State) : s.takeNextMove.df = s.df := by unfold State.takeNextMove; split <;> rfl
@[simp] theorem takeNextMove_fault (s : State) : s.takeNextMove.fault = s.fault := by unfold State.takeNextMove; split <;> rfl
@[simp] theorem takeNextMove_report (s : State) : s.takeNextMove.report = s.report := by unfold State.takeNextMove; split <;> rfl
@[simp] theorem takeNextMove_mem (s : State) : s.takeNextMove.mem = s.mem := by unfold State.takeNextMove; split <;> rfl
@[simp] theorem takeNextMove_present (s : State) : s.takeNextMove.present = s.present := by unfold State.takeNextMove; split <;> rfl
@[simp] theorem takeNextMove_tone (s : State) : s.takeNextMove.tone = s.tone := by unfold State.takeNextMove; split <;> rfl
@[simp] theorem takeNextMove_loadReport (s : State) : s.takeNextMove.loadReport = s.loadReport := by unfold State.takeNextMove; split <;> rfl
@[simp] theorem takeNextMove_settings (s : State) : s.takeNextMove.settings = s.settings := by unfold State.takeNextMove; split <;> rfl
@[simp] theorem takeNextMove_loadOpen (s : State) : s.takeNextMove.loadOpen = s.loadOpen := by unfold State.takeNextMove; split <;> rfl

/-! ### The fields the updates write -/

@[simp] theorem raise_fault (s : State) (c : FatalCause) :
    (s.raise c).fault = some { cause := c, pc := s.pc } := rfl
@[simp] theorem reportNotImplemented_report (s : State) (w : Word) :
    (s.reportNotImplemented w).report = some (.notImplemented w) := rfl
@[simp] theorem push_sp (s : State) (w : Word) : (s.push w).sp = s.sp + 1 := rfl
@[simp] theorem setByte_mem (s : State) (a : Nat) (b : Byte) : (s.setByte a b).mem = s.mem.write a b := rfl
@[simp] theorem storeWord_mem (s : State) (w : Word) :
    (s.storeWord w).mem = s.mem.writeBytes s.pc.toNat (bytesOfWord w) := rfl
@[simp] theorem retire_jf (s : State) (j : Bool) : (s.retire j).jf = j := by
  cases j <;> rfl
@[simp] theorem retire_false_pc (s : State) : (s.retire false).pc = wrapPc (s.pc.toNat + 2) := rfl
@[simp] theorem retire_true_pc (s : State) : (s.retire true).pc = wrapPc s.pc.toNat := rfl
@[simp] theorem presentStep_present (s : State) : s.presentStep.present = s.df := rfl
@[simp] theorem presentStep_df (s : State) : s.presentStep.df = false := rfl
@[simp] theorem toneStep_tone (s : State) : s.toneStep.tone = decide (s.st ≠ 0) := rfl

end Sys2Proof.Machine
end

