-- ==== Sys2Proof/Laws/Ops.lean ====
section
/-! SUPPORT. One lemma per shared operation: everything it can do, to be cited where it is called. -/

namespace Sys2Proof.Machine

/-! ### Registers -/

@[simp] theorem v_setV_same (s : State) (x : Reg) (b : Byte) : (s.setV x b).v x = b := by
  simp [State.v, State.setV, Vector.get_eq_getElem]

theorem v_setV_other (s : State) {x k : Reg} (b : Byte) (h : k ≠ x) : (s.setV x b).v k = s.v k := by
  have : x.val ≠ k.val := fun e => h (Fin.ext e.symm)
  simp [State.v, State.setV, Vector.get_eq_getElem, this]

theorem v_setV (s : State) (x k : Reg) (b : Byte) : (s.setV x b).v k = if k = x then b else s.v k := by
  split
  · next h => subst h; simp
  · next h => exact v_setV_other s b h

/-- Two states with the same register file read the same registers. -/
theorem v_of_regs {s t : State} (h : t.regs = s.regs) (k : Reg) : t.v k = s.v k := by
  simp [State.v, h]

@[simp] theorem v_retire (s : State) (j : Bool) (k : Reg) : (s.retire j).v k = s.v k := v_of_regs (by simp) k

/-- The order of 42_alu.md R130 (b): the flag is what `V[15]` ends with. -/
theorem v_setResultThenFlag (s : State) (x k : Reg) (r f : Byte) :
    (s.setResultThenFlag x r f).v k = if k = vF then f else if k = x then r else s.v k := by
  simp only [State.setResultThenFlag, v_setV]

/-- The order of 42_alu.md R130 (a): both operands are read with the flag register zeroed. -/
theorem v_zeroFlagThenCombine (s : State) (x y k : Reg) (op : Byte → Byte → Byte) :
    (s.zeroFlagThenCombine x y op).v k =
      if k = x then op (if x = vF then 0 else s.v x) (if y = vF then 0 else s.v y)
      else if k = vF then 0 else s.v k := by
  simp only [State.zeroFlagThenCombine, v_setV]

/-! ### Call stack -/

@[simp] theorem stackAt_push_same (s : State) (w : Word) : (s.push w).stackAt (s.sp + 1) = w := by
  rw [State.stackAt, Vector.get_eq_getElem]
  exact Vector.getElem_set_self ..

theorem stackAt_push_other (s : State) (w : Word) {k : BitVec 4} (h : k ≠ s.sp + 1) :
    (s.push w).stackAt k = s.stackAt k := by
  have : (s.sp + 1).toNat ≠ k.toNat := fun e => h (BitVec.eq_of_toNat_eq e.symm)
  rw [State.stackAt, State.stackAt, Vector.get_eq_getElem, Vector.get_eq_getElem]
  exact Vector.getElem_set_ne (s.sp + 1).isLt k.isLt this

/-! ### Framebuffer -/

@[simp] theorem pixel_setPixel_same (s : State) (row : Fin 32) (col : Fin 64) (p : Bool) :
    (s.setPixel row col p).pixel row col = p := by
  simp [State.pixel, State.setPixel, Vector.get_eq_getElem]

theorem pixel_setPixel_other (s : State) {row row' : Fin 32} {col col' : Fin 64} (p : Bool)
    (h : ¬ (row' = row ∧ col' = col)) : (s.setPixel row col p).pixel row' col' = s.pixel row' col' := by
  simp only [State.pixel, State.setPixel, Vector.get_eq_getElem, Vector.getElem_set]
  by_cases hr : row.val = row'.val
  · have hc : col.val ≠ col'.val := fun e => h ⟨Fin.ext hr.symm, Fin.ext e.symm⟩
    simp only [hr, if_true, Vector.getElem_set, if_neg hc]
  · simp only [if_neg hr]

@[simp] theorem pixel_clearScreen (s : State) (row : Fin 32) (col : Fin 64) :
    s.clearScreen.pixel row col = false := by
  simp [State.pixel, State.clearScreen, Vector.get_eq_getElem]

/-! ### Program counter -/

@[simp] theorem wrapPc_toNat (n : Nat) : (wrapPc n).toNat = n % 4096 := by
  simp only [wrapPc, Config.memSize, BitVec.toNat_ofNat]
  omega

/-- The end of an instruction, as one update. -/
theorem retire_eq (s : State) (j : Bool) :
    s.retire j = { s with jf := j, pc := wrapPc (if j then s.pc.toNat else s.pc.toNat + 2) } := by
  cases j <;> rfl

theorem jumpTo_eq (s : State) (w : Word) : s.jumpTo w = { s with jf := true, pc := wrapPc w.toNat } := rfl

/-- A skip, as one update: 4 or 2 further, modulo 4096. -/
theorem skipIf_eq (s : State) (c : Bool) :
    s.skipIf c = { s with jf := false, pc := wrapPc (s.pc.toNat + if c then 4 else 2) } := by
  cases c
  · rfl
  · simp only [State.skipIf, if_true, retire_eq, Bool.false_eq_true, if_false]
    congr 1
    apply BitVec.eq_of_toNat_eq
    have h2 : (2 : Word).toNat = 2 := rfl
    simp only [wrapPc_toNat, BitVec.toNat_add, h2]
    omega

@[simp] theorem v_jumpTo (s : State) (w : Word) (k : Reg) : (s.jumpTo w).v k = s.v k := v_of_regs rfl k

@[simp] theorem v_skipIf (s : State) (c : Bool) (k : Reg) : (s.skipIf c).v k = s.v k :=
  v_of_regs (by rw [skipIf_eq]) k

/-! ### Data accesses and keys -/

/-- Two states with the same keypad latch show the same keys. -/
theorem keyDown_of_keys {s t : State} (h : t.keys = s.keys) (k : Fin 16) : t.keyDown k = s.keyDown k := by
  simp [State.keyDown, h]

/-- The range check answers one of two next states (20_memory.md R53). -/
theorem withData_cases (s : State) (n : Nat) (go : State) :
    (s.lastByte n ≤ 4095 ∧ s.withData n go = .next go) ∨
    (4095 < s.lastByte n ∧ s.withData n go = .next (s.raise (.addressFault .data (s.lastByte n)))) := by
  unfold State.withData Config.memSize
  split
  · next h => exact .inr ⟨h, rfl⟩
  · next h => exact .inl ⟨by omega, rfl⟩

theorem keyOf_eq_some {b : Byte} {k : Fin 16} : keyOf b = some k ↔ b.toNat = k.val := by
  unfold keyOf
  split
  · next h => simp [Fin.ext_iff]
  · next h => simp; omega

theorem keyOf_eq_none {b : Byte} : keyOf b = none ↔ 15 < b.toNat := by
  unfold keyOf
  split <;> simp <;> omega

/-- The lowest key is down and every key below it is not. -/
theorem lowestKey_eq_some {s : State} {k : Fin 16} (h : s.lowestKey = some k) :
    s.keyDown k = true ∧ ∀ j < k, s.keyDown j = false := by
  unfold State.lowestKey at h
  obtain ⟨hk, as, bs, hsplit, hbefore⟩ := List.find?_eq_some_iff_append.1 h
  refine ⟨hk, fun j hj => ?_⟩
  have hmem : j ∈ as := by
    have hin : j ∈ as ++ k :: bs := hsplit ▸ List.mem_finRange j
    rcases List.mem_append.1 hin with hin | hin
    · exact hin
    · have hsorted : (as ++ k :: bs).Pairwise (· < ·) := hsplit ▸ List.pairwise_lt_finRange 16
      rcases List.mem_cons.1 hin with rfl | hin
      · exact absurd hj (lt_irrefl _)
      · exact absurd ((List.pairwise_cons.1 (List.pairwise_append.1 hsorted).2.1).1 j hin) (lt_asymm hj)
  simpa using hbefore j hmem

/-- A key that is down, with none below it down, is the lowest. -/
theorem lowestKey_of {s : State} {k : Fin 16} (hk : s.keyDown k = true) (hl : ∀ j < k, s.keyDown j = false) :
    s.lowestKey = some k := by
  cases h : s.lowestKey with
  | none =>
    have h0 := List.find?_eq_none.1 h k (List.mem_finRange k)
    exact absurd hk h0
  | some j =>
    obtain ⟨hj, hlow⟩ := lowestKey_eq_some h
    rcases lt_trichotomy j k with hlt | rfl | hgt
    · exact absurd hj (by simp [hl j hlt])
    · rfl
    · exact absurd hk (by simp [hlow k hgt])

theorem lowestKey_eq_none {s : State} : s.lowestKey = none ↔ ∀ k, s.keyDown k = false := by
  simp [State.lowestKey, List.find?_eq_none]

end Sys2Proof.Machine
end

