-- ==== Sys2Proof/Laws/Cycle.lean ====
section
/-! SUPPORT. What a transfer's one step, a pixel's flip, the steps of a tick and a move of the host can
do, each said once. -/

namespace Sys2Proof.Machine

@[simp] theorem v_takeNextMove (s : State) (k : Reg) : s.takeNextMove.v k = s.v k := v_of_regs (by simp) k

/-! ### One register of a block transfer (43_memory_index.md R154, R155) -/

theorem dumpOne_eq (s : State) (k : Reg) :
    s.dumpOne k = { s with mem := s.mem.write s.i.toNat (s.v k), i := s.i + 1 } := rfl

theorem fillOne_eq (s : State) (k : Reg) :
    s.fillOne k = { s with regs := (s.setV k (s.mem.read s.i.toNat)).regs, i := s.i + 1 } := rfl

theorem mem_regsThrough {x k : Reg} : k ∈ regsThrough x ↔ k ≤ x := by
  simp [regsThrough]

theorem nodup_regsThrough (x : Reg) : (regsThrough x).Nodup := (List.nodup_finRange 16).filter _

/-! ### One pixel of a sprite (44_display.md R161) -/

theorem flipPixel_eq (s : State) (row : Fin 32) (col : Fin 64) :
    s.flipPixel row col =
      { s with regs := (if s.pixel row col then s.setV vF 1 else s).regs
               fb := (s.setPixel row col (!s.pixel row col)).fb } := by
  unfold State.flipPixel
  split <;> rfl

theorem pixel_of_fb {s t : State} (h : t.fb = s.fb) (row : Fin 32) (col : Fin 64) :
    t.pixel row col = s.pixel row col := by
  simp [State.pixel, h]

theorem pixel_flipPixel (s : State) (row row' : Fin 32) (col col' : Fin 64) :
    (s.flipPixel row col).pixel row' col' =
      if row' = row ∧ col' = col then !s.pixel row' col' else s.pixel row' col' := by
  have h : (s.flipPixel row col).pixel row' col' =
      (s.setPixel row col (!s.pixel row col)).pixel row' col' := by
    rw [flipPixel_eq]; rfl
  rw [h]
  split
  · next e => obtain ⟨rfl, rfl⟩ := e; simp
  · next e => exact pixel_setPixel_other s _ e

theorem v_flipPixel (s : State) (row : Fin 32) (col : Fin 64) (k : Reg) :
    (s.flipPixel row col).v k = if s.pixel row col ∧ k = vF then 1 else s.v k := by
  have h : (s.flipPixel row col).v k = (if s.pixel row col then s.setV vF 1 else s).v k := by
    rw [flipPixel_eq]; rfl
  rw [h]
  by_cases hp : s.pixel row col = true <;> by_cases hk : k = vF <;> simp [hp, hk, v_setV]

/-! ### The steps of a tick (40_instruction_cycle.md) -/

theorem keyDown_sampleKeys (s : State) (k : Fin 16) :
    s.sampleKeys.keyDown k =
      if s.pending.inputs.keysValid then s.pending.inputs.keys.getLsbD k.val else s.keyDown k := by
  unfold State.sampleKeys
  split <;> simp [State.keyDown, Vector.get_eq_getElem]

/-- The start of a tick, as one update. -/
theorem beginTick_eq (s : State) :
    s.beginTick = { s with report := none, present := false, loadOpen := false, keys := s.sampleKeys.keys } := by
  unfold State.beginTick State.sampleKeys
  simp only
  split <;> rfl

/-- The keys a tick works with, whatever `WAIT` is (R91). -/
theorem keyDown_beginTick (s : State) (k : Fin 16) :
    s.beginTick.keyDown k =
      if s.pending.inputs.keysValid then s.pending.inputs.keys.getLsbD k.val else s.keyDown k := by
  rw [← keyDown_sampleKeys]
  exact keyDown_of_keys (by rw [beginTick_eq]) k

/-- Everything the wait step can do (45_keyboard_timers_random.md R171, R172). -/
theorem waitStep_cases (s : State) :
    (s.wait = .resume ∧ s.waitStep = .next s) ∨
    (∃ r, s.wait = .halt r ∧ s.lowestKey = none ∧ s.waitStep = .next s) ∨
    (∃ r k, s.wait = .halt r ∧ s.lowestKey = some k ∧
      s.waitStep = .next { s.setV r (BitVec.ofNat 8 k.val) with wait := .waitForRelease r }) ∨
    (∃ r k, s.wait = .waitForRelease r ∧ keyOf (s.v r) = some k ∧ s.keyDown k = true ∧
      s.waitStep = .next s) ∨
    (∃ r k, s.wait = .waitForRelease r ∧ keyOf (s.v r) = some k ∧ s.keyDown k = false ∧
      s.waitStep = .next { s with wait := .resume }) ∨
    (∃ r, s.wait = .waitForRelease r ∧ keyOf (s.v r) = none ∧
      s.waitStep = .fault (.latchedKeyOutOfRange r (s.v r))) := by
  unfold State.waitStep
  cases hw : s.wait with
  | resume => exact .inl ⟨rfl, rfl⟩
  | halt r =>
    cases hk : s.lowestKey with
    | none => exact .inr (.inl ⟨r, rfl, rfl, rfl⟩)
    | some k => exact .inr (.inr (.inl ⟨r, k, rfl, rfl, rfl⟩))
  | waitForRelease r =>
    cases hk : keyOf (s.v r) with
    | none => exact .inr (.inr (.inr (.inr (.inr ⟨r, rfl, hk, by simp [hk]⟩))))
    | some k =>
      cases hd : s.keyDown k with
      | true => exact .inr (.inr (.inr (.inl ⟨r, k, rfl, hk, hd, by simp [hk, hd]⟩)))
      | false => exact .inr (.inr (.inr (.inr (.inl ⟨r, k, rfl, hk, hd, by simp [hk, hd]⟩))))

/-- The wait step changes at most the target register and the wait state. -/
theorem waitStep_frame {s t : State} (h : s.waitStep = .next t) :
    t = { s with regs := t.regs, wait := t.wait } := by
  rcases waitStep_cases s with ⟨_, e⟩ | ⟨_, _, _, e⟩ | ⟨_, _, _, _, e⟩ | ⟨_, _, _, _, _, e⟩ |
    ⟨_, _, _, _, _, e⟩ | ⟨_, _, _, e⟩ <;> rw [e] at h <;> cases h <;> rfl

/-- The end of a tick, as one update. -/
theorem endTick_eq (s : State) :
    s.endTick = { s with dt := s.timerStep.dt, st := s.timerStep.st, present := s.df, df := false
                         tone := decide (s.timerStep.st ≠ 0) } := by
  unfold State.endTick State.timerStep
  split <;> rfl

theorem countDown_toNat (t : Byte) : (countDown t).toNat = t.toNat - 1 := by
  unfold countDown
  split
  · next h => simp [h]
  · next h =>
    have : t.toNat ≠ 0 := fun e => h (BitVec.eq_of_toNat_eq (by simpa using e))
    have h1 : (1 : Byte).toNat = 1 := rfl
    rw [BitVec.toNat_sub, h1]
    omega

/-! ### Executing, ticks and moves -/

/-- From an answer through `andThen` back to the answer it went through. -/
theorem andThen_eq_next {r : Result} {f : State → Result} {t : State} (h : andThen r f = .next t) :
    ∃ u, r = .next u ∧ f u = .next t := by
  cases r with
  | next u => exact ⟨u, rfl, h⟩
  | fault e => cases h
  | refused e => cases h

/-- A tick that runs to its end: the wait step, then the end of the tick. -/
theorem afterExecute_eq_next {s t : State} (h : s.afterExecute = .next t) :
    ∃ u, s.waitStep = .next u ∧ t = u.endTick := by
  obtain ⟨u, hu, ht⟩ := andThen_eq_next h
  cases ht
  exact ⟨u, hu, rfl⟩

/-- Steps 3 to 6 leave the keypad latch and `REPORT`. -/
theorem afterExecute_frame {s t : State} (h : s.afterExecute = .next t) : t.keys = s.keys ∧ t.report = s.report := by
  obtain ⟨u, hu, rfl⟩ := afterExecute_eq_next h
  rw [endTick_eq, waitStep_frame hu]
  exact ⟨rfl, rfl⟩

/-- What follows an instruction in its tick (R101): nothing when it latched a fault, else steps 3 to 6. -/
theorem finishTick_cases (s : State) :
    (s.fault.isSome = true ∧ finishTick s = .next s) ∨ (s.fault = none ∧ finishTick s = s.afterExecute) := by
  unfold finishTick
  cases hf : s.fault with
  | some f => exact .inl ⟨rfl, by simp⟩
  | none => exact .inr ⟨rfl, by simp⟩

/-- Everything fetch, decode and execute can do (R93). -/
theorem executeOne_cases (s : State) :
    (∃ c, State.fetch { s with jf := false } = .error c ∧
      executeOne s = .next (State.raise { s with jf := false } c)) ∨
    (∃ w, State.fetch { s with jf := false } = .ok w ∧ decodeWord w = .error (.decodeFailure w) ∧
      executeOne s = .next (State.raise { s with jf := false } (.decodeFailure w))) ∨
    (∃ w i, State.fetch { s with jf := false } = .ok w ∧ decodeWord w = .ok i ∧
      executeOne s = exec i { s with jf := false }) := by
  unfold executeOne
  cases hf : State.fetch { s with jf := false } with
  | error c => exact .inl ⟨c, rfl, by simp [hf]⟩
  | ok w =>
    cases hd : decodeWord w with
    | error e =>
      have he : e = .decodeFailure w := by
        unfold decodeWord at hd
        split at hd <;> cases hd
        rfl
      exact .inr (.inl ⟨w, rfl, he ▸ hd, by simp [hf, hd]⟩)
    | ok i => exact .inr (.inr ⟨w, i, rfl, hd, by simp [hf, hd]⟩)

/-- Everything a tick can do (R90): reset, nothing, one instruction and the rest, or the rest alone. -/
theorem tick_cases (s : State) :
    (s.pending.inputs.resetReq = true ∧ tick s = .next s.doReset) ∨
    (s.pending.inputs.resetReq = false ∧ s.fault.isSome = true ∧ tick s = .next s) ∨
    (s.pending.inputs.resetReq = false ∧ s.fault = none ∧ s.beginTick.gateOpen = true ∧
      tick s = andThen (executeOne s.beginTick) finishTick) ∨
    (s.pending.inputs.resetReq = false ∧ s.fault = none ∧ s.beginTick.gateOpen = false ∧
      tick s = s.beginTick.afterExecute) := by
  unfold tick
  cases hr : s.pending.inputs.resetReq with
  | true => exact .inl ⟨rfl, by simp⟩
  | false =>
    cases hf : s.fault with
    | some f => exact .inr (.inl ⟨rfl, rfl, by simp⟩)
    | none =>
      cases hg : s.beginTick.gateOpen with
      | true => exact .inr (.inr (.inl ⟨rfl, rfl, rfl, by simp⟩))
      | false => exact .inr (.inr (.inr ⟨rfl, rfl, rfl, by simp⟩))

/-- Everything one move of the host can do, when it answers a next state (10_state.md R42). -/
theorem step_cases {s t : State} (h : step s = .next t) :
    (s.pending.cmd = .tick ∧ ∃ u, tick s = .next u ∧ t = u.takeNextMove) ∨
    (s.pending.cmd = .reset ∧ t = s.doReset.takeNextMove) ∨
    (∃ bytes, s.pending.cmd = .load bytes ∧ s.loadOpen = true ∧ t = (s.doLoad bytes).takeNextMove) := by
  obtain ⟨u, hu, ht⟩ := andThen_eq_next h
  cases ht
  unfold hostOperation at hu
  cases hc : s.pending.cmd with
  | tick => rw [hc] at hu; exact .inl ⟨rfl, u, hu, rfl⟩
  | reset => rw [hc] at hu; cases hu; exact .inr (.inl ⟨rfl, rfl⟩)
  | load bytes =>
    rw [hc] at hu
    simp only at hu
    split at hu
    · next ho => cases hu; exact .inr (.inr ⟨bytes, rfl, ho, rfl⟩)
    · cases hu

end Sys2Proof.Machine
end

