-- ==== Sys2Proof/Laws/Decode.lean ====
section
/-! SUPPORT. The fields of a composed word are the fields it was composed of (30_encoding.md R71,
R72), and what the decoder can answer. -/

namespace Sys2Proof

/-! ### The bits of a composed word -/

theorem getLsbD_formNnn (op : BitVec 4) (nnn : Addr) (j : Nat) :
    (formNnn op nnn).getLsbD j = if j < 12 then nnn.getLsbD j else op.getLsbD (j - 12) :=
  (BitVec.getLsbD_append (x := op) (y := nnn)).trans (by simp)

theorem getLsbD_formXkk (op : BitVec 4) (x : Reg) (kk : Byte) (j : Nat) :
    (formXkk op x kk).getLsbD j =
      if j < 8 then kk.getLsbD j
      else if j < 12 then (BitVec.ofFin x : BitVec 4).getLsbD (j - 8) else op.getLsbD (j - 12) := by
  refine (BitVec.getLsbD_append (x := op ++ (BitVec.ofFin x : BitVec 4)) (y := kk)).trans ?_
  rw [BitVec.getLsbD_append]
  simp only [Nat.sub_sub]
  split_ifs <;> first | rfl | omega

theorem getLsbD_formXyn (op : BitVec 4) (x y : Reg) (n : Nibble) (j : Nat) :
    (formXyn op x y n).getLsbD j =
      if j < 4 then n.getLsbD j
      else if j < 8 then (BitVec.ofFin y : BitVec 4).getLsbD (j - 4)
      else if j < 12 then (BitVec.ofFin x : BitVec 4).getLsbD (j - 8) else op.getLsbD (j - 12) := by
  refine (BitVec.getLsbD_append (x := op ++ (BitVec.ofFin x : BitVec 4) ++ (BitVec.ofFin y : BitVec 4))
    (y := n)).trans ?_
  rw [BitVec.getLsbD_append, BitVec.getLsbD_append]
  simp only [Nat.sub_sub]
  split_ifs <;> first | rfl | omega

/-! ### The fields of a composed word -/

theorem extractLsb_eq_of_bits {n : Nat} (w : Word) (start : Nat) (v : BitVec n)
    (h : ∀ i, i < n → w.getLsbD (start + i) = v.getLsbD i) : w.extractLsb' start n = v := by
  apply BitVec.eq_of_getLsbD_eq
  intro i hi
  simp [hi, h i hi]

@[simp] theorem opField_formNnn (op : BitVec 4) (nnn : Addr) : opField (formNnn op nnn) = op :=
  extractLsb_eq_of_bits _ _ _ fun i hi => by
    rw [getLsbD_formNnn, if_neg (by omega)]; congr 1; omega

@[simp] theorem nnnField_formNnn (op : BitVec 4) (nnn : Addr) : nnnField (formNnn op nnn) = nnn :=
  extractLsb_eq_of_bits _ _ _ fun i hi => by
    rw [getLsbD_formNnn, if_pos (by omega)]; congr 1; omega

@[simp] theorem opField_formXkk (op : BitVec 4) (x : Reg) (kk : Byte) : opField (formXkk op x kk) = op :=
  extractLsb_eq_of_bits _ _ _ fun i hi => by
    rw [getLsbD_formXkk, if_neg (by omega), if_neg (by omega)]; congr 1; omega

@[simp] theorem xField_formXkk (op : BitVec 4) (x : Reg) (kk : Byte) : xField (formXkk op x kk) = x := by
  have h : (formXkk op x kk).extractLsb' 8 4 = BitVec.ofFin x :=
    extractLsb_eq_of_bits _ _ _ fun i hi => by
      rw [getLsbD_formXkk, if_neg (by omega), if_pos (by omega)]; congr 1; omega
  simp [xField, h]

@[simp] theorem kkField_formXkk (op : BitVec 4) (x : Reg) (kk : Byte) : kkField (formXkk op x kk) = kk :=
  extractLsb_eq_of_bits _ _ _ fun i hi => by
    rw [getLsbD_formXkk, if_pos (by omega)]; congr 1; omega

@[simp] theorem opField_formXyn (op : BitVec 4) (x y : Reg) (n : Nibble) : opField (formXyn op x y n) = op :=
  extractLsb_eq_of_bits _ _ _ fun i hi => by
    rw [getLsbD_formXyn, if_neg (by omega), if_neg (by omega), if_neg (by omega)]; congr 1; omega

@[simp] theorem xField_formXyn (op : BitVec 4) (x y : Reg) (n : Nibble) : xField (formXyn op x y n) = x := by
  have h : (formXyn op x y n).extractLsb' 8 4 = BitVec.ofFin x :=
    extractLsb_eq_of_bits _ _ _ fun i hi => by
      rw [getLsbD_formXyn, if_neg (by omega), if_neg (by omega), if_pos (by omega)]; congr 1; omega
  simp [xField, h]

@[simp] theorem yField_formXyn (op : BitVec 4) (x y : Reg) (n : Nibble) : yField (formXyn op x y n) = y := by
  have h : (formXyn op x y n).extractLsb' 4 4 = BitVec.ofFin y :=
    extractLsb_eq_of_bits _ _ _ fun i hi => by
      rw [getLsbD_formXyn, if_neg (by omega), if_pos (by omega)]; congr 1; omega
  simp [yField, h]

@[simp] theorem nField_formXyn (op : BitVec 4) (x y : Reg) (n : Nibble) : nField (formXyn op x y n) = n :=
  extractLsb_eq_of_bits _ _ _ fun i hi => by
    rw [getLsbD_formXyn, if_pos (by omega)]; congr 1; omega

/-! ### What the decoder answers -/

theorem decodeWord_of_row {w : Word} {i : Instr} (h : decodeRow w = some i) : decodeWord w = .ok i := by
  simp [decodeWord, h]

theorem decodeRow_of_ok {w : Word} {i : Instr} (h : decodeWord w = .ok i) : decodeRow w = some i := by
  unfold decodeWord at h
  split at h
  · next j hj => cases h; exact hj
  · cases h

/-- A word is rejected by one name only, which carries it. -/
theorem decodeWord_error {w : Word} {e : DecodeError} (h : decodeWord w = .error e) :
    e = .decodeFailure w := by
  unfold decodeWord at h
  split at h <;> cases h
  rfl

/-- The two bytes of a word make the word again (20_memory.md R52). -/
theorem wordOfBytes_bytesOfWord (w : Word) :
    wordOfBytes (w.extractLsb' 8 8) (w.extractLsb' 0 8) = w := by
  apply BitVec.eq_of_getLsbD_eq
  intro j hj
  refine (BitVec.getLsbD_append (x := w.extractLsb' 8 8) (y := w.extractLsb' 0 8)).trans ?_
  split
  · next h => simp [h]
  · next h => simp [show j - 8 < 8 by omega, show 8 + (j - 8) = j by omega]

end Sys2Proof
end

