-- ==== Sys2Proof/Laws/PerInstr.lean ====
section
/-! SUPPORT. Statements made for every instruction, one lemma per constructor: the encoding of an
instruction matches its row of spec/opcode_table.json. -/

namespace Sys2Proof.Laws.TableRow

/-- The row's `mask` and `match`, as spec/opcode_table.json gives them. -/
def row : Instr → Word × Word
  | .scdN _ => (0xFFF0, 0x00C0)
  | .cls => (0xFFFF, 0x00E0)
  | .ret => (0xFFFF, 0x00EE)
  | .scr => (0xFFFF, 0x00FB)
  | .scl => (0xFFFF, 0x00FC)
  | .exit => (0xFFFF, 0x00FD)
  | .low => (0xFFFF, 0x00FE)
  | .high => (0xFFFF, 0x00FF)
  | .jpNnn _ => (0xF000, 0x1000)
  | .callNnn _ => (0xF000, 0x2000)
  | .seVxKk _ _ => (0xF000, 0x3000)
  | .sneVxKk _ _ => (0xF000, 0x4000)
  | .seVxVy _ _ => (0xF000, 0x5000)
  | .ldVxKk _ _ => (0xF000, 0x6000)
  | .addVxKk _ _ => (0xF000, 0x7000)
  | .ldVxVy _ _ => (0xF00F, 0x8000)
  | .orVxVy _ _ => (0xF00F, 0x8001)
  | .andVxVy _ _ => (0xF00F, 0x8002)
  | .xorVxVy _ _ => (0xF00F, 0x8003)
  | .addVxVy _ _ => (0xF00F, 0x8004)
  | .subVxVy _ _ => (0xF00F, 0x8005)
  | .shrVxVy _ _ => (0xF00F, 0x8006)
  | .subnVxVy _ _ => (0xF00F, 0x8007)
  | .shlVxVy _ _ => (0xF00F, 0x800E)
  | .sneVxVy _ _ => (0xF000, 0x9000)
  | .ldINnn _ => (0xF000, 0xA000)
  | .jpV0Nnn _ => (0xF000, 0xB000)
  | .rndVxKk _ _ => (0xF000, 0xC000)
  | .drwVxVy0 _ _ => (0xF00F, 0xD000)
  | .drwVxVyN _ _ _ => (0xF000, 0xD000)
  | .skpVx _ => (0xF0FF, 0xE09E)
  | .sknpVx _ => (0xF0FF, 0xE0A1)
  | .ldVxDt _ => (0xF0FF, 0xF007)
  | .ldVxK _ => (0xF0FF, 0xF00A)
  | .ldDtVx _ => (0xF0FF, 0xF015)
  | .ldStVx _ => (0xF0FF, 0xF018)
  | .addIVx _ => (0xF0FF, 0xF01E)
  | .ldFVx _ => (0xF0FF, 0xF029)
  | .ldBVx _ => (0xF0FF, 0xF033)
  | .ldMemVx _ => (0xF0FF, 0xF055)
  | .ldVxMem _ => (0xF0FF, 0xF065)
  | .ldRVx _ => (0xF0FF, 0xF075)
  | .ldVxR _ => (0xF0FF, 0xF085)

/-- The word of `i` matches the row of `i`: `(w & mask) = match` (30_encoding.md R74). -/
def Statement (i : Instr) : Prop := encode i &&& (row i).1 = (row i).2

/-- A word matches a row when it agrees with it on each of the sixteen bits. -/
theorem matches_of_bits {w mask row : Word}
    (h : ∀ j : Fin 16, (w.getLsbD j.val && mask.getLsbD j.val) = row.getLsbD j.val) : w &&& mask = row :=
  BitVec.eq_of_getLsbD_eq fun j hj => by rw [BitVec.getLsbD_and]; exact h (Fin.mk j hj)

/-- Format `NNN`. -/
theorem matches_formNnn (op : BitVec 4) (nnn : Addr) : formNnn op nnn &&& 0xF000 = formNnn op 0 := by
  refine matches_of_bits fun j => ?_
  rw [getLsbD_formNnn, getLsbD_formNnn]
  by_cases h : j.val < 12
  · have hm : ∀ j : Fin 16, j.val < 12 → (0xF000 : Word).getLsbD j.val = false := by decide
    rw [hm j h]; simp [h]
  · have hm : ∀ j : Fin 16, ¬ j.val < 12 → (0xF000 : Word).getLsbD j.val = true := by decide
    rw [hm j h]; simp [h]

/-- Formats `XKK`, matched on the top nibble. -/
theorem matches_formXkk (op : BitVec 4) (x : Reg) (kk : Byte) :
    formXkk op x kk &&& 0xF000 = formXkk op 0 0 := by
  refine matches_of_bits fun j => ?_
  rw [getLsbD_formXkk, getLsbD_formXkk]
  by_cases h : j.val < 12
  · have hm : ∀ j : Fin 16, j.val < 12 → (0xF000 : Word).getLsbD j.val = false := by decide
    rw [hm j h]; simp [h]
  · have hm : ∀ j : Fin 16, ¬ j.val < 12 → (0xF000 : Word).getLsbD j.val = true := by decide
    rw [hm j h]; simp [h, show ¬ j.val < 8 by omega]

/-- Format `X`, matched on the top nibble and the low byte. -/
theorem matches_formX (op : BitVec 4) (x : Reg) (kk : Byte) :
    formXkk op x kk &&& 0xF0FF = formXkk op 0 kk := by
  refine matches_of_bits fun j => ?_
  rw [getLsbD_formXkk, getLsbD_formXkk]
  by_cases h : j.val < 8
  · have hm : ∀ j : Fin 16, j.val < 8 → (0xF0FF : Word).getLsbD j.val = true := by decide
    rw [hm j h]; simp [h]
  · by_cases h' : j.val < 12
    · have hm : ∀ j : Fin 16, ¬ j.val < 8 → j.val < 12 → (0xF0FF : Word).getLsbD j.val = false := by decide
      rw [hm j h h']; simp [h, h']
    · have hm : ∀ j : Fin 16, ¬ j.val < 12 → (0xF0FF : Word).getLsbD j.val = true := by decide
      rw [hm j h']; simp [h, h']

/-- Formats `XY` and `XYN`, matched on the top nibble and the low one. -/
theorem matches_formXy (op : BitVec 4) (x y : Reg) (n : Nibble) :
    formXyn op x y n &&& 0xF00F = formXyn op 0 0 n := by
  refine matches_of_bits fun j => ?_
  rw [getLsbD_formXyn, getLsbD_formXyn]
  by_cases h : j.val < 4
  · have hm : ∀ j : Fin 16, j.val < 4 → (0xF00F : Word).getLsbD j.val = true := by decide
    rw [hm j h]; simp [h]
  · by_cases h' : j.val < 12
    · have hm : ∀ j : Fin 16, ¬ j.val < 4 → j.val < 12 → (0xF00F : Word).getLsbD j.val = false := by decide
      rw [hm j h h']; simp [h, h']
    · have hm : ∀ j : Fin 16, ¬ j.val < 12 → (0xF00F : Word).getLsbD j.val = true := by decide
      rw [hm j h']; simp [h, h', show ¬ j.val < 8 by omega]

/-- Formats `XY` and `XYN`, matched on the top nibble only. -/
theorem matches_formXyn (op : BitVec 4) (x y : Reg) (n : Nibble) :
    formXyn op x y n &&& 0xF000 = formXyn op 0 0 0 := by
  refine matches_of_bits fun j => ?_
  rw [getLsbD_formXyn, getLsbD_formXyn]
  by_cases h : j.val < 12
  · have hm : ∀ j : Fin 16, j.val < 12 → (0xF000 : Word).getLsbD j.val = false := by decide
    rw [hm j h]; simp [h]
  · have hm : ∀ j : Fin 16, ¬ j.val < 12 → (0xF000 : Word).getLsbD j.val = true := by decide
    rw [hm j h]; simp [h, show ¬ j.val < 4 by omega, show ¬ j.val < 8 by omega]

theorem scdN (n : Nibble) : Statement (.scdN n) := by revert n; unfold Statement; decide
theorem cls : Statement .cls := rfl
theorem ret : Statement .ret := rfl
theorem scr : Statement .scr := rfl
theorem scl : Statement .scl := rfl
theorem exit : Statement .exit := rfl
theorem low : Statement .low := rfl
theorem high : Statement .high := rfl
theorem jpNnn (nnn : Addr) : Statement (.jpNnn nnn) := matches_formNnn _ nnn
theorem callNnn (nnn : Addr) : Statement (.callNnn nnn) := matches_formNnn _ nnn
theorem seVxKk (x : Reg) (kk : Byte) : Statement (.seVxKk x kk) := matches_formXkk _ x kk
theorem sneVxKk (x : Reg) (kk : Byte) : Statement (.sneVxKk x kk) := matches_formXkk _ x kk
theorem seVxVy (x y : Reg) : Statement (.seVxVy x y) := matches_formXyn _ x y _
theorem ldVxKk (x : Reg) (kk : Byte) : Statement (.ldVxKk x kk) := matches_formXkk _ x kk
theorem addVxKk (x : Reg) (kk : Byte) : Statement (.addVxKk x kk) := matches_formXkk _ x kk
theorem ldVxVy (x y : Reg) : Statement (.ldVxVy x y) := matches_formXy _ x y _
theorem orVxVy (x y : Reg) : Statement (.orVxVy x y) := matches_formXy _ x y _
theorem andVxVy (x y : Reg) : Statement (.andVxVy x y) := matches_formXy _ x y _
theorem xorVxVy (x y : Reg) : Statement (.xorVxVy x y) := matches_formXy _ x y _
theorem addVxVy (x y : Reg) : Statement (.addVxVy x y) := matches_formXy _ x y _
theorem subVxVy (x y : Reg) : Statement (.subVxVy x y) := matches_formXy _ x y _
theorem shrVxVy (x y : Reg) : Statement (.shrVxVy x y) := matches_formXy _ x y _
theorem subnVxVy (x y : Reg) : Statement (.subnVxVy x y) := matches_formXy _ x y _
theorem shlVxVy (x y : Reg) : Statement (.shlVxVy x y) := matches_formXy _ x y _
theorem sneVxVy (x y : Reg) : Statement (.sneVxVy x y) := matches_formXyn _ x y _
theorem ldINnn (nnn : Addr) : Statement (.ldINnn nnn) := matches_formNnn _ nnn
theorem jpV0Nnn (nnn : Addr) : Statement (.jpV0Nnn nnn) := matches_formNnn _ nnn
theorem rndVxKk (x : Reg) (kk : Byte) : Statement (.rndVxKk x kk) := matches_formXkk _ x kk
theorem drwVxVy0 (x y : Reg) : Statement (.drwVxVy0 x y) := matches_formXy _ x y _
theorem drwVxVyN (x y : Reg) (n : Nibble) : Statement (.drwVxVyN x y n) := matches_formXyn _ x y _
theorem skpVx (x : Reg) : Statement (.skpVx x) := matches_formX _ x _
theorem sknpVx (x : Reg) : Statement (.sknpVx x) := matches_formX _ x _
theorem ldVxDt (x : Reg) : Statement (.ldVxDt x) := matches_formX _ x _
theorem ldVxK (x : Reg) : Statement (.ldVxK x) := matches_formX _ x _
theorem ldDtVx (x : Reg) : Statement (.ldDtVx x) := matches_formX _ x _
theorem ldStVx (x : Reg) : Statement (.ldStVx x) := matches_formX _ x _
theorem addIVx (x : Reg) : Statement (.addIVx x) := matches_formX _ x _
theorem ldFVx (x : Reg) : Statement (.ldFVx x) := matches_formX _ x _
theorem ldBVx (x : Reg) : Statement (.ldBVx x) := matches_formX _ x _
theorem ldMemVx (x : Reg) : Statement (.ldMemVx x) := matches_formX _ x _
theorem ldVxMem (x : Reg) : Statement (.ldVxMem x) := matches_formX _ x _
theorem ldRVx (x : Reg) : Statement (.ldRVx x) := matches_formX _ x _
theorem ldVxR (x : Reg) : Statement (.ldVxR x) := matches_formX _ x _

end Sys2Proof.Laws.TableRow
end

