-- ==== Sys2Proof/Laws/Transfer.lean ====
section
/-! SUPPORT. What a whole block transfer and a whole sprite do, each said once
(43_memory_index.md R154, R155; 44_display.md R161). -/

namespace Sys2Proof.Machine

/-! ### Block transfers -/

theorem length_regsThrough (x : Reg) : (regsThrough x).length = x.val + 1 := by revert x; decide

theorem getElem_regsThrough (x : Reg) (k : Nat) :
    (regsThrough x)[k]? = if h : k ≤ x.val then some (Fin.mk k (by omega)) else none := by
  by_cases hk : k < 16
  · obtain ⟨k', rfl⟩ : ∃ k' : Fin 16, k = k'.val := ⟨⟨k, hk⟩, rfl⟩
    revert x k'; decide
  · rw [dif_neg (by omega), List.getElem?_eq_none]
    rw [length_regsThrough]; omega

theorem toNat_succ (w : Word) (h : w.toNat < 65535) : (w + 1).toNat = w.toNat + 1 := by
  have h1 : (1 : Word).toNat = 1 := rfl
  rw [BitVec.toNat_add, h1]; omega

/-- A dump stores the registers' values in a row and leaves `I` past them; nothing else changes. -/
theorem dump_eq (l : List Reg) : ∀ s : State, s.i.toNat + l.length ≤ 65535 →
    l.foldl State.dumpOne s =
      { s with mem := s.mem.writeBytes s.i.toNat (l.map s.v), i := BitVec.ofNat 16 (s.i.toNat + l.length) } := by
  induction l with
  | nil => intro s h; simp [Memory.writeBytes]
  | cons k l ih =>
    intro s h
    rw [List.length_cons] at h
    have hi : (s.dumpOne k).i.toNat = s.i.toNat + 1 := toNat_succ s.i (by omega)
    rw [List.foldl_cons, ih _ (by omega), hi, List.length_cons, Nat.add_assoc, Nat.add_comm 1]
    rfl

/-- A load fills the listed registers from the bytes in a row and leaves `I` past them. -/
theorem fill_eq (l : List Reg) : ∀ s : State, s.i.toNat + l.length ≤ 65535 → l.Nodup →
    ∃ r, l.foldl State.fillOne s = { s with regs := r, i := BitVec.ofNat 16 (s.i.toNat + l.length) } ∧
      (∀ k : Reg, k ∉ l → r.get k = s.v k) ∧
      (∀ (j : Nat) (k : Reg), l[j]? = some k → r.get k = s.mem.read (s.i.toNat + j)) := by
  induction l with
  | nil => intro s h _; exact ⟨s.regs, by simp, fun k _ => rfl, by simp⟩
  | cons q l ih =>
    intro s h hn
    rw [List.length_cons] at h
    obtain ⟨hq, hn⟩ := List.nodup_cons.1 hn
    have hi : (s.fillOne q).i.toNat = s.i.toNat + 1 := toNat_succ s.i (by omega)
    obtain ⟨r, h1, h2, h3⟩ := ih (s.fillOne q) (by omega) hn
    refine ⟨r, ?_, fun k hk => ?_, fun j k hj => ?_⟩
    · rw [List.foldl_cons, h1, hi, List.length_cons, Nat.add_assoc, Nat.add_comm 1]
      rfl
    · rw [List.mem_cons, not_or] at hk
      rw [h2 k hk.2]
      exact v_setV_other s _ hk.1
    · cases j with
      | zero =>
        obtain rfl : q = k := by simpa using hj
        rw [h2 _ hq]
        exact v_setV_same s _ _
      | succ j =>
        rw [List.getElem?_cons_succ] at hj
        rw [h3 j k hj, hi, Nat.add_assoc, Nat.add_comm 1]
        rfl

/-! ### Sprites -/

/-- The pixels a sprite's set bits fall on, in drawing order. -/
def spritePixels (bytes : Nat → Byte) (x0 y0 n : Nat) : List (Fin 32 × Fin 64) :=
  (List.range n).flatMap fun r =>
    ((List.range 8).filter fun c => (bytes r).getLsbD (7 - c)).map fun c => (wrapRow (y0 + r), wrapCol (x0 + c))

/-- Flip a list of pixels, one after another. -/
def State.flipAll (s : State) (l : List (Fin 32 × Fin 64)) : State :=
  l.foldl (fun t p => t.flipPixel p.1 p.2) s

theorem flipAll_eq (l : List (Fin 32 × Fin 64)) : ∀ s : State,
    s.flipAll l = { s with regs := (s.flipAll l).regs, fb := (s.flipAll l).fb } := by
  induction l with
  | nil => intro s; rfl
  | cons p l ih =>
    intro s
    refine (ih (s.flipPixel p.1 p.2)).trans ?_
    change { s.flipPixel p.1 p.2 with
        regs := ((s.flipPixel p.1 p.2).flipAll l).regs, fb := ((s.flipPixel p.1 p.2).flipAll l).fb } =
      { s with regs := ((s.flipPixel p.1 p.2).flipAll l).regs, fb := ((s.flipPixel p.1 p.2).flipAll l).fb }
    generalize (s.flipPixel p.1 p.2).flipAll l = u
    rw [flipPixel_eq]

theorem drawBits_eq (x0 : Nat) (row : Fin 32) (b : Byte) (l : List Nat) : ∀ s : State,
    l.foldl (fun t c => t.drawBit x0 row b c) s =
      s.flipAll ((l.filter fun c => b.getLsbD (7 - c)).map fun c => (row, wrapCol (x0 + c))) := by
  induction l with
  | nil => intro s; rfl
  | cons c l ih =>
    intro s
    rw [List.foldl_cons, ih, State.drawBit, List.filter_cons]
    split <;> rfl

/-- A sprite is the flips of its pixels, after the flag register is zeroed. -/
theorem blit_eq (s : State) (x0 y0 n : Nat) :
    s.blit x0 y0 n =
      (s.setV vF 0).flipAll (spritePixels (fun r => s.byteAt (s.i.toNat + r)) x0 y0 n) := by
  unfold State.blit
  have key : ∀ (l : List Nat) (t : State), t.mem = s.mem → t.i = s.i →
      l.foldl (fun t r => t.drawRow x0 y0 r) t =
        t.flipAll (l.flatMap fun r => ((List.range 8).filter fun c =>
          (s.byteAt (s.i.toNat + r)).getLsbD (7 - c)).map fun c => (wrapRow (y0 + r), wrapCol (x0 + c))) := by
    intro l
    induction l with
    | nil => intro t _ _; rfl
    | cons r l ih =>
      intro t hm hi
      have hrow : t.drawRow x0 y0 r = t.flipAll (((List.range 8).filter fun c =>
          (s.byteAt (s.i.toNat + r)).getLsbD (7 - c)).map fun c => (wrapRow (y0 + r), wrapCol (x0 + c))) := by
        unfold State.drawRow
        rw [drawBits_eq]
        simp only [byteAt_eq, hm, hi]
      rw [List.foldl_cons, hrow, ih, List.flatMap_cons, State.flipAll, State.flipAll, State.flipAll,
        List.foldl_append]
      · rw [flipAll_eq]; exact hm
      · rw [flipAll_eq]; exact hi
  exact key _ _ rfl rfl

theorem wrapCol_val (n : Nat) : (wrapCol n).val = n % 64 := rfl

theorem wrapRow_val (n : Nat) : (wrapRow n).val = n % 32 := rfl

theorem mem_spritePixels {bytes : Nat → Byte} {x0 y0 n : Nat} {row : Fin 32} {col : Fin 64} :
    (row, col) ∈ spritePixels bytes x0 y0 n ↔ ∃ r c, r < n ∧ c < 8 ∧
      row.val = (y0 + r) % 32 ∧ col.val = (x0 + c) % 64 ∧ (bytes r).getLsbD (7 - c) = true := by
  simp only [spritePixels, List.mem_flatMap, List.mem_map, List.mem_filter, List.mem_range, Prod.mk.injEq,
    Fin.ext_iff, wrapCol_val, wrapRow_val]
  constructor
  · rintro ⟨r, hr, c, ⟨hc, hb⟩, e1, e2⟩
    exact ⟨r, c, hr, hc, e1.symm, e2.symm, hb⟩
  · rintro ⟨r, c, hr, hc, e1, e2, hb⟩
    exact ⟨r, hr, c, ⟨hc, hb⟩, e1.symm, e2.symm⟩

/-- No two bits of a sprite fall on one pixel: it has at most 32 rows, and 8 columns. -/
theorem nodup_spritePixels (bytes : Nat → Byte) (x0 y0 n : Nat) (hn : n ≤ 32) :
    (spritePixels bytes x0 y0 n).Nodup := by
  unfold spritePixels
  rw [List.nodup_flatMap]
  constructor
  · intro r _
    refine List.Nodup.map_on ?_ (List.nodup_range.filter _)
    intro c hc d hd e
    have hc := List.mem_range.1 (List.mem_filter.1 hc).1
    have hd := List.mem_range.1 (List.mem_filter.1 hd).1
    have e := congrArg (fun p => p.2.val) e
    simp only [wrapCol_val] at e
    omega
  · refine List.Pairwise.imp_of_mem ?_ List.nodup_range
    intro r q hr hq hne p hp hp'
    have hr := List.mem_range.1 hr
    have hq := List.mem_range.1 hq
    obtain ⟨_, _, rfl⟩ := List.mem_map.1 hp
    obtain ⟨_, _, e⟩ := List.mem_map.1 hp'
    have e := congrArg (fun p => p.1.val) e
    simp only [wrapRow_val] at e
    omega

/-- Flipping a list of different pixels flips exactly those. -/
theorem pixel_flipAll (l : List (Fin 32 × Fin 64)) : ∀ s : State, l.Nodup → ∀ row col,
    (s.flipAll l).pixel row col = if (row, col) ∈ l then !s.pixel row col else s.pixel row col := by
  induction l with
  | nil => intro s _ row col; simp [State.flipAll]
  | cons p l ih =>
    intro s hn row col
    obtain ⟨hp, hn⟩ := List.nodup_cons.1 hn
    show ((s.flipPixel p.1 p.2).flipAll l).pixel row col = _
    rw [ih _ hn, pixel_flipPixel]
    by_cases he : (row, col) = p
    · subst he; simp [hp]
    · have : ¬ (row = p.1 ∧ col = p.2) := fun e => he (Prod.ext e.1 e.2)
      simp [he, this]

/-- Flipping a list of different pixels sets the flag register exactly when one of them was set. -/
theorem v_flipAll (l : List (Fin 32 × Fin 64)) : ∀ s : State, l.Nodup → ∀ k,
    (s.flipAll l).v k = if (∃ p ∈ l, s.pixel p.1 p.2 = true) ∧ k = vF then 1 else s.v k := by
  induction l with
  | nil => intro s _ k; simp [State.flipAll]
  | cons p l ih =>
    intro s hn k
    obtain ⟨hp, hn⟩ := List.nodup_cons.1 hn
    show ((s.flipPixel p.1 p.2).flipAll l).v k = _
    have hsame : (∃ q ∈ l, (s.flipPixel p.1 p.2).pixel q.1 q.2 = true) ↔ ∃ q ∈ l, s.pixel q.1 q.2 = true := by
      refine exists_congr fun q => and_congr_right fun hq => ?_
      rw [pixel_flipPixel, if_neg]
      rintro ⟨e1, e2⟩
      exact hp (Prod.ext e1 e2 ▸ hq)
    rw [ih _ hn]
    simp only [hsame, v_flipPixel]
    by_cases hk : k = vF <;> by_cases h0 : s.pixel p.1 p.2 = true <;> simp [hk, h0]

end Sys2Proof.Machine
end

