-- ==== Sys2Proof/Tests/Slice0.lean ====
section
/-! SUPPORT. Tests: well-formedness, decoding of words written out from 30_encoding.md, single steps with
the results 95_test_vectors.md gives, and a state that meets the hypotheses of each statement. -/

set_option maxRecDepth 8000

namespace Sys2Proof.Tests

open Sys2Proof.Machine

/-! ### Helpers -/

/-- What a step must answer: a next state of which `c` holds. -/
def goesTo (s : State) (c : State → Bool) : Bool :=
  match step s with
  | .next t => c t
  | .fault _ => false
  | .refused _ => false

/-- What an instruction must answer. -/
def execGoesTo (i : Instr) (s : State) (c : State → Bool) : Bool :=
  match exec i s with
  | .next t => c t
  | .fault _ => false
  | .refused _ => false

/-- The start state of 95_test_vectors.md: the reset state, changed, with a word at `PC`. -/
def start (w : Word) (change : State → State) : State := (change State.reset).storeWord w

/-- The reset state, changed, without a word. -/
def from0 (change : State → State) : State := change State.reset

def setInputs (f : Inputs → Inputs) (s : State) : State :=
  { s with pending := { s.pending with inputs := f s.pending.inputs } }

def keysDown (k : BitVec 16) : State → State := setInputs (fun m => { m with keys := k })

def timerDue : State → State := setInputs (fun m => { m with timerDue := true })

def withRnd (r : Byte) : State → State := setInputs (fun m => { m with rnd := r })

def gateClosed : State → State := setInputs (fun m => { m with execDue := false })

def resetReq : State → State := setInputs (fun m => { m with resetReq := true })

def cmd (c : HostCmd) (s : State) : State := { s with pending := { s.pending with cmd := c } }

def at' (pc : Word) (s : State) : State := { s with pc := pc }

def withI (i : Word) (s : State) : State := { s with i := i }

def withSp (sp : BitVec 4) (s : State) : State := { s with sp := sp }

def withStack (k : Fin 16) (w : Word) (s : State) : State := { s with stack := s.stack.set k.val w k.isLt }

def withWait (x : WaitState) (s : State) : State := { s with wait := x }

def quirk (s : State) : State := { s with settings := { s.settings with shiftQuirk := true } }

def v (x : Reg) (b : Byte) (s : State) : State := s.setV x b

def faulted (s : State) : State := s.raise .stackOverflow

theorem exists_of_goesTo {s : State} {c : State → Bool} (h : goesTo s c = true) :
    ∃ t, step s = .next t ∧ c t = true := by
  unfold goesTo at h
  split at h
  · next t ht => exact ⟨t, ht, h⟩
  · cases h
  · cases h

theorem exists_of_execGoesTo {i : Instr} {s : State} {c : State → Bool} (h : execGoesTo i s c = true) :
    ∃ t, exec i s = .next t ∧ c t = true := by
  unfold execGoesTo at h
  split at h
  · next t ht => exact ⟨t, ht, h⟩
  · cases h
  · cases h

/-! ### Well-formedness (30_encoding.md R78) -/

theorem test_wellformed_refuses_classic_draw_of_no_rows :
    (Instr.drwVxVyN 1 2 0).wellFormed = false ∧ (Instr.drwVxVyN 1 2 1).wellFormed = true ∧
    (Instr.drwVxVy0 1 2).wellFormed = true := by decide

/-! ### Decoding, every row of 30_encoding.md R74, bit by bit -/

theorem test_decode_family0 :
    decodeWord 0b0000_0000_1100_1001#16 = .ok (.scdN 9) ∧
    decodeWord 0b0000_0000_1110_0000#16 = .ok .cls ∧
    decodeWord 0b0000_0000_1110_1110#16 = .ok .ret ∧
    decodeWord 0b0000_0000_1111_1011#16 = .ok .scr ∧
    decodeWord 0b0000_0000_1111_1100#16 = .ok .scl ∧
    decodeWord 0b0000_0000_1111_1101#16 = .ok .exit ∧
    decodeWord 0b0000_0000_1111_1110#16 = .ok .low ∧
    decodeWord 0b0000_0000_1111_1111#16 = .ok .high := by decide

theorem test_decode_addresses :
    decodeWord 0b0001_1010_1011_1100#16 = .ok (.jpNnn 0xABC) ∧
    decodeWord 0b0010_0001_0010_0011#16 = .ok (.callNnn 0x123) ∧
    decodeWord 0b1010_1000_0000_0001#16 = .ok (.ldINnn 0x801) ∧
    decodeWord 0b1011_1111_1111_1110#16 = .ok (.jpV0Nnn 0xFFE) := by decide

theorem test_decode_immediates :
    decodeWord 0b0011_1010_0100_0010#16 = .ok (.seVxKk 0xA 0x42) ∧
    decodeWord 0b0100_0101_1000_0001#16 = .ok (.sneVxKk 5 0x81) ∧
    decodeWord 0b0110_1111_0000_0111#16 = .ok (.ldVxKk 15 0x07) ∧
    decodeWord 0b0111_0001_1111_1110#16 = .ok (.addVxKk 1 0xFE) ∧
    decodeWord 0b1100_0010_0000_1111#16 = .ok (.rndVxKk 2 0x0F) := by decide

theorem test_decode_two_registers :
    decodeWord 0b0101_0001_0010_0111#16 = .ok (.seVxVy 1 2) ∧
    decodeWord 0b1001_0001_0010_1111#16 = .ok (.sneVxVy 1 2) ∧
    decodeWord 0b1000_0001_0010_0000#16 = .ok (.ldVxVy 1 2) ∧
    decodeWord 0b1000_0001_0010_0001#16 = .ok (.orVxVy 1 2) ∧
    decodeWord 0b1000_0001_0010_0010#16 = .ok (.andVxVy 1 2) ∧
    decodeWord 0b1000_0001_0010_0011#16 = .ok (.xorVxVy 1 2) ∧
    decodeWord 0b1000_0001_0010_0100#16 = .ok (.addVxVy 1 2) ∧
    decodeWord 0b1000_0001_0010_0101#16 = .ok (.subVxVy 1 2) ∧
    decodeWord 0b1000_0001_0010_0110#16 = .ok (.shrVxVy 1 2) ∧
    decodeWord 0b1000_0001_0010_0111#16 = .ok (.subnVxVy 1 2) ∧
    decodeWord 0b1000_0001_0010_1110#16 = .ok (.shlVxVy 1 2) := by decide

theorem test_decode_draws_and_key_skips :
    decodeWord 0b1101_0001_0010_0000#16 = .ok (.drwVxVy0 1 2) ∧
    decodeWord 0b1101_0001_0010_1111#16 = .ok (.drwVxVyN 1 2 15) ∧
    decodeWord 0b1110_1100_1001_1110#16 = .ok (.skpVx 12) ∧
    decodeWord 0b1110_1100_1010_0001#16 = .ok (.sknpVx 12) := by decide

theorem test_decode_familyF :
    decodeWord 0b1111_0011_0000_0111#16 = .ok (.ldVxDt 3) ∧
    decodeWord 0b1111_0011_0000_1010#16 = .ok (.ldVxK 3) ∧
    decodeWord 0b1111_0011_0001_0101#16 = .ok (.ldDtVx 3) ∧
    decodeWord 0b1111_0011_0001_1000#16 = .ok (.ldStVx 3) ∧
    decodeWord 0b1111_0011_0001_1110#16 = .ok (.addIVx 3) ∧
    decodeWord 0b1111_0011_0010_1001#16 = .ok (.ldFVx 3) ∧
    decodeWord 0b1111_0011_0011_0011#16 = .ok (.ldBVx 3) ∧
    decodeWord 0b1111_0011_0101_0101#16 = .ok (.ldMemVx 3) ∧
    decodeWord 0b1111_0011_0110_0101#16 = .ok (.ldVxMem 3) ∧
    decodeWord 0b1111_0011_0111_0101#16 = .ok (.ldRVx 3) ∧
    decodeWord 0b1111_0011_1000_0101#16 = .ok (.ldVxR 3) := by decide

/-- A decode failure that carries its word. -/
def fails (w : Word) : Bool :=
  match decodeWord w with
  | .error (.decodeFailure u) => u = w
  | .error .truncated => false
  | .ok _ => false

/-- The failing words 95_test_vectors.md lists. -/
theorem test_decode_failures_of_family0 : [0x0000#16, 0x0123#16, 0x00E1#16, 0x00EF#16, 0x00B0#16, 0x00D0#16,
      0x01E0#16, 0x00FA#16].all fails = true := by decide

theorem test_decode_failures_of_families_8_and_E : [0x8008#16, 0x812F#16, 0x8129#16, 0xE000#16, 0xE19F#16,
      0xE1A0#16].all fails = true := by decide

theorem test_decode_failures_of_family_F : [0xF000#16, 0xF130#16, 0xF10B#16, 0xF1FF#16, 0xFF56#16].all fails = true := by
  decide

/-- The bytes after an instruction are left; one byte is no word. -/
theorem test_decode_bytes :
    decodeBytes [0x6A, 0x42, 0x12] = .ok (.ldVxKk 0xA 0x42, [0x12]) ∧
    decodeBytes [0x6A] = .error .truncated ∧ decodeTableWord 16 0x2ABC = some (.callNnn 0xABC) := by decide

/-! ### Control transfer -/

theorem test_jump : goesTo (start 0x1ABC id) (fun t => t.pc = 0xABC && t.jf) = true := by decide

theorem test_call_last_slot : goesTo (start 0x2ABC (withSp 14))
    (fun t => t.sp = 15 && t.stackAt 15 = 0x200 && t.stackAt 14 = 0 && t.pc = 0xABC) = true := by decide

theorem test_call_overflow : goesTo (start 0x2ABC (withSp 15))
    (fun t => t.fault = some ⟨.stackOverflow, 0x200⟩ && t.sp = 15 && t.stackAt 0 = 0 && t.pc = 0x200) = true := by
  decide

theorem test_return_wraps : goesTo (start 0x00EE (fun s => withSp 1 (withStack 1 0x0FFE s)))
    (fun t => t.sp = 0 && t.pc = 0 && t.stackAt 1 = 0x0FFE) = true := by decide

theorem test_return_underflow : goesTo (start 0x00EE id)
    (fun t => t.fault = some ⟨.stackUnderflow, 0x200⟩ && t.pc = 0x200) = true := by decide

theorem test_jump_offset_wraps : goesTo (start 0xBFFF (v 0 2)) (fun t => t.pc = 1) = true := by decide

theorem test_skip_taken_wraps : goesTo (start 0x3000 (at' 0xFFC)) (fun t => t.pc = 0) = true := by decide

theorem test_skip_not_equal : goesTo (start 0x4A42 (v 10 0x41)) (fun t => t.pc = 0x204) = true ∧
    goesTo (start 0x4A42 (v 10 0x42)) (fun t => t.pc = 0x202) = true := by decide

theorem test_skip_registers_ignores_low_nibble :
    goesTo (start 0x5127 (fun s => v 1 7 (v 2 7 s))) (fun t => t.pc = 0x204) = true := by decide

theorem test_skip_registers_differ :
    goesTo (start 0x9120 (fun s => v 1 7 (v 2 8 s))) (fun t => t.pc = 0x204) = true := by decide

theorem test_skip_key_down : goesTo (start 0xE39E (fun s => keysDown 0x0080 (v 3 7 s)))
    (fun t => t.pc = 0x204 && t.keyDown 7) = true := by decide

theorem test_skip_key_code_above_fifteen : goesTo (start 0xE39E (fun s => keysDown 0x0001 (v 3 16 s)))
    (fun t => t.fault = some ⟨.keyIndexFault 16, 0x200⟩ && t.keyDown 0 && t.pc = 0x200) = true := by decide

theorem test_skip_key_up : goesTo (start 0xE3A1 (fun s => keysDown 0x0080 (v 3 7 s))) (fun t => t.pc = 0x202) = true ∧
    goesTo (start 0xE3A1 (v 3 7)) (fun t => t.pc = 0x204) = true := by decide

/-! ### ALU -/

theorem test_load_immediate : goesTo (start 0x6A42 (v 10 1)) (fun t => t.v 10 = 0x42 && t.pc = 0x202) = true := by
  decide

theorem test_add_immediate_keeps_flag :
    goesTo (start 0x7AFF (fun s => v 10 1 (v 15 1 s))) (fun t => t.v 10 = 0 && t.v 15 = 1) = true := by decide

theorem test_load_register : goesTo (start 0x8120 (fun s => v 1 1 (v 2 0x99 (v 15 1 s))))
    (fun t => t.v 1 = 0x99 && t.v 2 = 0x99 && t.v 15 = 1) = true := by decide

theorem test_or_flag_operand_reads_zero :
    goesTo (start 0x81F1 (fun s => v 1 0x10 (v 15 3 s))) (fun t => t.v 1 = 0x10 && t.v 15 = 0) = true := by decide

theorem test_or_flag_destination : goesTo (start 0x8F11 (fun s => v 1 0x55 (v 15 2 s))) (fun t => t.v 15 = 0x55) = true := by
  decide

theorem test_and : goesTo (start 0x8122 (fun s => v 1 0x3C (v 2 0x0F (v 15 1 s))))
    (fun t => t.v 1 = 0x0C && t.v 15 = 0) = true := by decide

theorem test_xor : goesTo (start 0x8123 (fun s => v 1 0xFF (v 2 0x0F (v 15 1 s))))
    (fun t => t.v 1 = 0xF0 && t.v 15 = 0) = true := by decide

theorem test_add_carry : goesTo (start 0x8124 (fun s => v 1 0xFF (v 2 0x01 s)))
    (fun t => t.v 1 = 0 && t.v 15 = 1) = true := by decide

theorem test_add_flag_destination : goesTo (start 0x8F14 (fun s => v 15 0xF0 (v 1 0x20 s))) (fun t => t.v 15 = 1) = true := by
  decide

theorem test_sub_borrows : goesTo (start 0x8125 (fun s => v 1 0x01 (v 2 0x10 s)))
    (fun t => t.v 1 = 0xF1 && t.v 15 = 0) = true := by decide

theorem test_sub_equal : goesTo (start 0x8125 (fun s => v 1 0x33 (v 2 0x33 s)))
    (fun t => t.v 1 = 0 && t.v 15 = 1) = true := by decide

theorem test_subn : goesTo (start 0x8127 (fun s => v 1 0x01 (v 2 0x10 s)))
    (fun t => t.v 1 = 0x0F && t.v 15 = 1) = true := by decide

theorem test_shift_right_both_quirks :
    goesTo (start 0x8016 (fun s => v 0 2 (v 1 0x81 s))) (fun t => t.v 0 = 0x40 && t.v 15 = 1 && t.v 1 = 0x81) = true ∧
    goesTo (start 0x8016 (fun s => quirk (v 0 2 (v 1 0x81 s)))) (fun t => t.v 0 = 0x01 && t.v 15 = 0) = true := by decide

theorem test_shift_left_both_quirks :
    goesTo (start 0x801E (fun s => v 0 2 (v 1 0x81 s))) (fun t => t.v 0 = 0x02 && t.v 15 = 1 && t.v 1 = 0x81) = true ∧
    goesTo (start 0x801E (fun s => quirk (v 0 2 (v 1 0x81 s)))) (fun t => t.v 0 = 0x04 && t.v 15 = 0) = true := by decide

/-! ### Index register and memory -/

theorem test_load_index : goesTo (start 0xA123 id) (fun t => t.i = 0x123 && t.pc = 0x202) = true := by decide

theorem test_add_index_wraps : goesTo (start 0xF21E (fun s => withI 0xFFFF (v 2 2 (v 15 1 s))))
    (fun t => t.i = 1 && t.v 15 = 1) = true := by decide

theorem test_glyph_address_not_masked : goesTo (start 0xF029 (v 0 0xFF)) (fun t => t.i = 0x4FB) = true := by decide

theorem test_bcd_last_place : goesTo (start 0xF033 (fun s => withI 0xFFD (v 0 0xFF s)))
    (fun t => t.bytesAt 0xFFD 3 = [2, 5, 5] && t.i = 0xFFD) = true := by decide

theorem test_bcd_past_the_end : goesTo (start 0xF033 (fun s => withI 0xFFE (v 0 0xFF s)))
    (fun t => t.fault = some ⟨.addressFault .data 0x1000, 0x200⟩ && t.bytesAt 0xFFE 2 = [0, 0]) = true := by decide

theorem test_dump : goesTo (start 0xF255 (fun s => withI 0x400 (v 0 0x11 (v 1 0x22 (v 2 0x33 (v 3 0x44 s))))))
    (fun t => t.bytesAt 0x400 4 = [0x11, 0x22, 0x33, 0] && t.i = 0x403) = true := by decide

theorem test_dump_past_the_end : goesTo (start 0xF155 (fun s => withI 0xFFF (v 0 0x11 (v 1 0x22 s))))
    (fun t => t.fault = some ⟨.addressFault .data 0x1000, 0x200⟩ && t.byteAt 0xFFF = 0 && t.i = 0xFFF) = true := by decide

theorem test_fill_from_font : goesTo (start 0xFF65 id)
    (fun t => t.regs.toList = [0xF0, 0x90, 0x90, 0x90, 0xF0, 0x20, 0x60, 0x20, 0x20, 0x70, 0xF0, 0x10, 0xF0, 0x80, 0xF0,
      0xF0] && t.i = 0x10) = true := by decide

theorem test_fill_past_the_end : goesTo (start 0xF065 (withI 0x1000))
    (fun t => t.fault = some ⟨.addressFault .data 0x1000, 0x200⟩) = true := by decide

/-! ### Display -/

theorem test_clear_screen : goesTo (start 0x00E0 (fun s => (s.setPixel 0 0 true).setPixel 31 63 true))
    (fun t => t.fb = State.reset.fb && t.present && !t.df) = true := by decide

theorem test_draw_wraps : goesTo (start 0xD121 (fun s => withI 0x300 (v 1 0x3F (s.setByte 0x300 0xC0))))
    (fun t => t.pixel 0 63 && t.pixel 0 0 && !t.pixel 0 1 && t.v 15 = 0 && t.present) = true := by decide

theorem test_draw_collides : goesTo (start 0xD121 (fun s => withI 0x300 ((s.setByte 0x300 0xFF).setPixel 0 7 true)))
    (fun t => t.pixel 0 6 && !t.pixel 0 7 && t.v 15 = 1) = true := by decide

/-! ### Key wait, timers, random -/

theorem test_key_wait_latches_lowest : goesTo (start 0xF50A (keysDown 0x1200))
    (fun t => t.v 5 = 9 && t.wait = .waitForRelease 5 && t.pc = 0x202) = true := by decide

theorem test_key_wait_halts : goesTo (start 0xF50A id)
    (fun t => t.v 5 = 0 && t.wait = .halt 5 && t.pc = 0x202) = true := by decide

theorem test_read_delay_timer_before_decrement : goesTo (start 0xF307 (fun s => timerDue { s with dt := 0x1E }))
    (fun t => t.v 3 = 0x1E && t.dt = 0x1D) = true := by decide

theorem test_write_delay_timer : goesTo (start 0xF315 (fun s => timerDue (v 3 0x3C s))) (fun t => t.dt = 0x3B) = true ∧
    goesTo (start 0xF315 timerDue) (fun t => t.dt = 0) = true := by decide

theorem test_write_sound_timer : goesTo (start 0xF018 (v 0 2)) (fun t => t.st = 2 && t.tone) = true ∧
    goesTo (start 0xF018 (fun s => timerDue (v 0 1 s))) (fun t => t.st = 0 && !t.tone) = true := by decide

theorem test_random : goesTo (start 0xC40F (fun s => withRnd 0xA7 (v 4 0xFF s))) (fun t => t.v 4 = 7) = true := by decide

/-! ### Extended opcodes -/

/-- The end state of every extended opcode's vector. -/
def reported (w : Word) (t : State) : Bool :=
  t.report = some (.notImplemented w) && t.pc = 0x202 && t.fault.isNone && t.v 3 = 7 && !t.present

theorem test_extended_report_scrolls_and_exit : [0x00C4#16, 0x00C0#16, 0x00FB#16, 0x00FC#16, 0x00FD#16].all
    (fun w => goesTo (start w (v 3 7)) (reported w)) = true := by decide

theorem test_extended_report_modes_and_flags : [0x00FE#16, 0x00FF#16, 0xF375#16, 0xF385#16].all
    (fun w => goesTo (start w (v 3 7)) (reported w)) = true := by decide

theorem test_extended_draw_reads_no_memory : goesTo (start 0xD120 (fun s => withI 0x2000 (v 15 1 s)))
    (fun t => t.report = some (.notImplemented 0xD120) && t.pc = 0x202 && t.fault.isNone && t.v 15 = 1) = true := by decide

/-! ### Tick, reset, load -/

theorem test_sequential_wrap : goesTo (start 0x6A11 (at' 0xFFE)) (fun t => t.v 10 = 0x11 && t.pc = 0) = true := by decide

theorem test_odd_pc : goesTo (start 0x6A11 (at' 0x201)) (fun t => t.v 10 = 0x11 && t.pc = 0x203) = true := by decide

theorem test_fetch_at_last_byte : goesTo (from0 (at' 0xFFF))
    (fun t => t.fault = some ⟨.addressFault .fetch 0x1000, 0xFFF⟩ && t.pc = 0xFFF) = true := by decide

theorem test_empty_program : goesTo State.reset (fun t => t.fault = some ⟨.decodeFailure 0, 0x200⟩) = true := by decide

theorem test_gate_closed : goesTo (start 0x6001 gateClosed) (fun t => t.v 0 = 0 && t.pc = 0x200) = true := by decide

theorem test_faulted_tick : goesTo (from0 (fun s => timerDue (keysDown 0xFFFF (faulted { s with dt := 5 }))))
    (fun t => t.dt = 5 && !t.keyDown 0 && t.fault.isSome) = true := by decide

theorem test_reset_request : goesTo (start 0x6001 (fun s => resetReq (faulted (v 3 7 s))))
    (fun t => t.v 3 = 0 && t.fault.isNone && t.mem.isEmpty && t.loadOpen) = true := by decide

theorem test_load : goesTo (from0 (cmd (.load [0x12, 0x34])))
    (fun t => t.bytesAt 0x200 3 = [0x12, 0x34, 0] && t.loadReport.isNone && !t.loadOpen) = true := by decide

theorem test_load_truncates :
    (State.reset.doLoad (List.replicate 3585 0xAB)).loadReport = some .loadTruncated ∧
    (State.reset.doLoad (List.replicate 3584 0xAB)).loadReport = none := by
  simp only [State.doLoad, List.length_replicate]
  decide

/-- P4 of 95_test_vectors.md, its ticks 3, 4 and 6: the lowest key latched, another released, that one. -/
theorem test_key_wait_round :
    goesTo (from0 (fun s => keysDown 0x0088 (withWait (.halt 5) s)))
      (fun t => t.v 5 = 3 && t.wait = .waitForRelease 5) = true ∧
    goesTo (from0 (fun s => keysDown 0x0008 (v 5 3 (withWait (.waitForRelease 5) s))))
      (fun t => t.wait = .waitForRelease 5 && t.v 5 = 3) = true ∧
    goesTo (from0 (fun s => keysDown 0x0080 (v 5 3 (withWait (.waitForRelease 5) s))))
      (fun t => t.wait = .resume && t.v 5 = 3 && t.pc = 0x200) = true := by decide

theorem test_place_word : ∀ w ∈ [0x6A42, 0x00E0, 0xF265],
    decodeWord (BitVec.ofNat 16 w) = (match (State.reset.withFetchWord 16 w).atExecute.fetch with
      | .ok x => decodeWord x
      | .error _ => .error .truncated) ∧
    goesTo (State.reset.withFetchWord 16 w) (fun t => t.pc = 0x202 && t.fault.isNone) = true := by decide

/-! ### Witnesses: a state and operands that meet the hypotheses of each statement, clause by clause -/

theorem test_witness_DecodeOfEncode :
    (Instr.drwVxVyN 0 15 1).wellFormed = true ∧ (Instr.drwVxVyN 15 0 15).wellFormed = true ∧
    (Instr.scdN 15).wellFormed = true ∧ (Instr.jpNnn 0xFFF).wellFormed = true := by decide

theorem test_witness_EncodeOfDecode :
    decodeWord 0x5127 = .ok (.seVxVy 1 2) ∧ opField 0x5127 = 0x5 ∧ decodeWord 0x912F = .ok (.sneVxVy 1 2) ∧
    opField 0x912F = 0x9 ∧ decodeWord 0x8127 = .ok (.subnVxVy 1 2) := by decide

/-- Both sides of each bound of 30_encoding.md R75. -/
theorem test_witness_DecodeFailures :
    [0x00BF#16, 0x00D0#16, 0x00FA#16, 0x8008#16, 0x800F#16, 0xE09D#16, 0xF084#16].all fails = true ∧
    [0x00C0#16, 0x00CF#16, 0x00FB#16, 0x8007#16, 0x800E#16, 0xE09E#16, 0xF085#16].any fails = false := by decide

theorem test_witness_Fetch :
    (at' 0xFFE State.reset).pc.toNat + 1 ≤ 4095 ∧ 4095 < (at' 0xFFF State.reset).pc.toNat + 1 := by decide

theorem test_witness_StepExecutes :
    (start 0x6A42 id).ticking ∧ (start 0x6A42 id).wait = .resume ∧ (start 0x6A42 id).pending.inputs.execDue = true ∧
    (start 0x6A42 id).atExecute.fetch = .ok 0x6A42 ∧ decodeWord 0x6A42 = .ok (.ldVxKk 10 0x42) := by
  refine ⟨⟨rfl, rfl, rfl⟩, rfl, rfl, rfl, by decide⟩

theorem test_witness_DecodeFailureIsLatched :
    (start 0xF130 id).ticking ∧ (start 0xF130 id).wait = .resume ∧ (start 0xF130 id).pending.inputs.execDue = true ∧
    (start 0xF130 id).atExecute.fetch = .ok 0xF130 ∧ decodeWord 0xF130 = .error (.decodeFailure 0xF130) := by
  refine ⟨⟨rfl, rfl, rfl⟩, rfl, rfl, rfl, by decide⟩

theorem test_witness_FetchAtLastByte :
    (from0 (at' 0xFFF)).ticking ∧ (from0 (at' 0xFFF)).wait = .resume ∧
    (from0 (at' 0xFFF)).pending.inputs.execDue = true ∧ (from0 (at' 0xFFF)).pc = 0xFFF :=
  ⟨⟨rfl, rfl, rfl⟩, rfl, rfl, rfl⟩

theorem test_witness_ClosedGate_waiting :
    (from0 (withWait (.halt 15))).ticking ∧ (from0 (withWait (.halt 15))).df = false ∧
    (from0 (withWait (.halt 15))).wait ≠ .resume ∧ ∃ t, step (from0 (withWait (.halt 15))) = .next t ∧ t.pc = 0x200 :=
  ⟨⟨rfl, rfl, rfl⟩, rfl, by decide, _, rfl, rfl⟩

theorem test_witness_ClosedGate_not_due :
    (from0 gateClosed).ticking ∧ (from0 gateClosed).df = false ∧ (from0 gateClosed).pending.inputs.execDue = false ∧
    ∃ t, step (from0 gateClosed) = .next t ∧ t.pc = 0x200 :=
  ⟨⟨rfl, rfl, rfl⟩, rfl, rfl, _, rfl, rfl⟩

/-- The timer clauses of the closed gate, here and in `TimersCountDownAndStopAtZero`: waiting for a release
with `DT` at 1 and `ST` at 1, waiting for a key with `DT` at 0 and `ST` at 2, not due with no `timer_due`. -/
theorem test_witness_ClosedGate_timers :
    ((from0 (fun s => timerDue (keysDown 0x0001 (withWait (.waitForRelease 3) { s with dt := 1, st := 1 })))).ticking ∧
      ∃ t, step (from0 (fun s => timerDue (keysDown 0x0001 (withWait (.waitForRelease 3) { s with dt := 1, st := 1 })))) =
        .next t ∧ decide (t.dt = 0 ∧ t.st = 0 ∧ t.tone = false ∧ t.wait = .waitForRelease 3) = true) ∧
    ((from0 (fun s => timerDue (withWait (.halt 3) { s with dt := 0, st := 2 }))).ticking ∧
      ∃ t, step (from0 (fun s => timerDue (withWait (.halt 3) { s with dt := 0, st := 2 }))) = .next t ∧
        decide (t.dt = 0 ∧ t.st = 1 ∧ t.tone) = true) ∧
    ((from0 (fun s => gateClosed { s with dt := 9, st := 9 })).ticking ∧
      ∃ t, step (from0 (fun s => gateClosed { s with dt := 9, st := 9 })) = .next t ∧
        decide (t.dt = 9 ∧ t.st = 9 ∧ t.wait = .resume) = true) :=
  ⟨⟨⟨rfl, rfl, rfl⟩, exists_of_goesTo (by decide)⟩, ⟨⟨rfl, rfl, rfl⟩, exists_of_goesTo (by decide)⟩,
    ⟨rfl, rfl, rfl⟩, exists_of_goesTo (by decide)⟩

theorem test_witness_LatchedFault :
    (from0 faulted).pending.cmd = .tick ∧ (from0 faulted).pending.inputs.resetReq = false ∧
    (from0 faulted).fault = some ⟨.stackOverflow, 0x200⟩ := ⟨rfl, rfl, rfl⟩

theorem test_witness_ResetRequest :
    (from0 (cmd .reset)).pending.cmd = .reset ∧
    ((from0 (fun s => resetReq (faulted s))).pending.cmd = .tick ∧
      (from0 (fun s => resetReq (faulted s))).pending.inputs.resetReq = true) := ⟨rfl, rfl, rfl⟩

/-- An empty program, the longest one, and one byte more. -/
theorem test_witness_Load : ∀ bytes ∈ [[], List.replicate 3584 0xAB, List.replicate 3585 (0xAB : Byte)],
    (from0 (cmd (.load bytes))).pending.cmd = .load bytes ∧ (from0 (cmd (.load bytes))).loadOpen = true :=
  fun _ _ => ⟨rfl, rfl⟩

/-- The window closed, by a load and by a tick. -/
theorem test_witness_LoadOutside :
    ((from0 (fun s => cmd (.load [1]) { s with loadOpen := false })).pending.cmd = .load [1] ∧
      (from0 (fun s => cmd (.load [1]) { s with loadOpen := false })).loadOpen = false) ∧
    ((from0 (cmd (.load [1]))).pending.cmd = .load [1] ∧ ∃ t, step (from0 (cmd (.load [1]))) = .next t ∧ t.loadOpen = false) ∧
    ((start 0x00E0 id).ticking ∧ ∃ t, step (start 0x00E0 id) = .next t ∧ (!t.loadOpen) = true) :=
  ⟨⟨rfl, rfl⟩, ⟨rfl, _, rfl, rfl⟩, ⟨rfl, rfl, rfl⟩, exists_of_goesTo (by decide)⟩

theorem test_witness_Timers :
    (from0 timerDue).pending.inputs.timerDue = true ∧ State.reset.pending.inputs.timerDue = false ∧
    (timerDue { State.reset with dt := 255, st := 0 }).timerStep.dt = 254 ∧
    (timerDue { State.reset with dt := 255, st := 0 }).timerStep.st = 0 := by decide

/-- The clause about a tick: `DT` at 1 and 0, `ST` at 0 and 2, and no count without `timer_due`. -/
theorem test_witness_Timers_in_a_tick :
    (∃ t, (timerDue { State.reset with dt := 1, st := 0 }).afterExecute = .next t ∧ t.dt = 0 ∧ t.st = 0) ∧
    (∃ t, (timerDue { State.reset with dt := 0, st := 2 }).afterExecute = .next t ∧ t.dt = 0 ∧ t.st = 1) ∧
    (∃ t, ({ State.reset with dt := 9, st := 2 } : State).afterExecute = .next t ∧ t.dt = 9 ∧ t.st = 2) :=
  ⟨⟨_, rfl, rfl, rfl⟩, ⟨_, rfl, rfl, rfl⟩, _, rfl, rfl, rfl⟩

/-- Present up after a draw, down after another instruction and after a reset. -/
theorem test_witness_Present :
    ((start 0x00E0 id).ticking ∧ (start 0x00E0 id).df = false ∧
      ∃ t, step (start 0x00E0 id) = .next t ∧ t.present = true) ∧
    ((start 0x6001 id).ticking ∧ (start 0x6001 id).df = false ∧
      ∃ t, step (start 0x6001 id) = .next t ∧ (!t.present) = true) ∧
    ((from0 (cmd .reset)).pending.cmd = .reset ∧ ∃ t, step (from0 (cmd .reset)) = .next t ∧ (!t.present) = true) ∧
    ((from0 resetReq).pending.inputs.resetReq = true ∧ (from0 resetReq).pending.cmd = .tick ∧
      ∃ t, step (from0 resetReq) = .next t ∧ (!t.present) = true) :=
  ⟨⟨⟨rfl, rfl, rfl⟩, rfl, exists_of_goesTo (by decide)⟩, ⟨⟨rfl, rfl, rfl⟩, rfl, exists_of_goesTo (by decide)⟩,
    ⟨rfl, exists_of_goesTo (by decide)⟩, rfl, rfl, exists_of_goesTo (by decide)⟩

/-- The first clause of present and the statement about tone: `ST` at 1 and at 2 with `timer_due`. -/
theorem test_witness_AfterExecute :
    (∃ t, (timerDue { State.reset with st := 1, df := true }).afterExecute = .next t ∧ t.tone = false ∧ t.present = true) ∧
    (∃ t, (timerDue { State.reset with st := 2 }).afterExecute = .next t ∧ t.tone = true ∧ t.present = false) :=
  ⟨⟨_, rfl, rfl, rfl⟩, _, rfl, rfl, rfl⟩

/-- No key, the lowest key, the highest. -/
theorem test_witness_Halt :
    ((from0 (withWait (.halt 5))).wait = .halt 5 ∧ ∀ k, (from0 (withWait (.halt 5))).keyDown k = false) ∧
    ((from0 (fun s => (keysDown 0x0001 (withWait (.halt 0) s)).sampleKeys)).keyDown 0 = true) ∧
    ((from0 (fun s => (keysDown 0x8000 (withWait (.halt 15) s)).sampleKeys)).keyDown 15 = true ∧
      ∀ j, j < 15 → (from0 (fun s => (keysDown 0x8000 (withWait (.halt 15) s)).sampleKeys)).keyDown j = false) ∧
    ((from0 (withWait (.halt 5))).ticking ∧ (from0 (withWait (.halt 5))).wait = .halt 5) := by
  refine ⟨⟨rfl, by decide⟩, by decide, ⟨by decide, by decide⟩, ⟨rfl, rfl, rfl⟩, rfl⟩

/-- The last two clauses: a tick and a reset in `Halt(r)`, and a key released. -/
theorem test_witness_Halt_left :
    ((from0 (withWait (.halt 5))).wait = .halt 5 ∧
      ∃ t, step (from0 (withWait (.halt 5))) = .next t ∧ decide (t.wait = .halt 5) = true) ∧
    ((from0 (fun s => cmd .reset (withWait (.halt 5) s))).wait = .halt 5 ∧
      ∃ t, step (from0 (fun s => cmd .reset (withWait (.halt 5) s))) = .next t ∧ decide (t.wait = .resume) = true) ∧
    ((from0 (withWait (.waitForRelease 5))).wait = .waitForRelease 5 ∧
      ∃ t, (from0 (withWait (.waitForRelease 5))).waitStep = .next t ∧ t.wait = .resume) :=
  ⟨⟨rfl, exists_of_goesTo (by decide)⟩, ⟨rfl, exists_of_goesTo (by decide)⟩, rfl, _, rfl, rfl⟩

/-- The lowest and the highest code a register can hold for a key. -/
theorem test_witness_Release :
    ((from0 (withWait (.waitForRelease 3))).ticking ∧ (from0 (withWait (.waitForRelease 3))).wait = .waitForRelease 3 ∧
      ((from0 (withWait (.waitForRelease 3))).v 3).toNat = (0 : Fin 16).val) ∧
    ((from0 (fun s => v 15 15 (withWait (.waitForRelease 15) s))).ticking ∧
      (from0 (fun s => v 15 15 (withWait (.waitForRelease 15) s))).wait = .waitForRelease 15 ∧
      ((from0 (fun s => v 15 15 (withWait (.waitForRelease 15) s))).v 15).toNat = (15 : Fin 16).val) :=
  ⟨⟨⟨rfl, rfl, rfl⟩, rfl, rfl⟩, ⟨rfl, rfl, rfl⟩, rfl, rfl⟩

/-- `CALL` and `CALL` then `RET`: the empty stack and one free entry; `RET`: one entry and the full stack. -/
theorem test_witness_CallAndReturn :
    (withSp 0 State.reset).sp ≠ 15 ∧ (withSp 14 State.reset).sp ≠ 15 ∧ (withSp 1 State.reset).sp ≠ 0 ∧
    (withSp 15 State.reset).sp ≠ 0 := by decide

theorem test_witness_KeySkips :
    ((v 3 0 State.reset).v 3).toNat = (0 : Fin 16).val ∧ ((v 3 15 State.reset).v 3).toNat = (15 : Fin 16).val := by decide

theorem test_witness_StackAndKeyFaults :
    (withSp 15 State.reset).sp = 15 ∧ State.reset.sp = 0 ∧ 15 < ((v 3 16 State.reset).v 3).toNat ∧
    15 < ((v 15 255 State.reset).v 15).toNat := by decide

/-- The value a shift shifts, in both quirk modes. -/
theorem test_witness_Shifts :
    (0x81 : Byte) = (if (v 1 0x81 State.reset).settings.shiftQuirk then (v 1 0x81 State.reset).v 0
      else (v 1 0x81 State.reset).v 1) ∧
    (0x81 : Byte) = (if (quirk (v 0 0x81 State.reset)).settings.shiftQuirk then (quirk (v 0 0x81 State.reset)).v 0
      else (quirk (v 0 0x81 State.reset)).v 1) := by decide

/-- The last place where three bytes, one byte and sixteen bytes fit, and the first where they do not. -/
theorem test_witness_DataAccesses :
    (withI 0xFFD State.reset).i.toNat + 2 ≤ 4095 ∧ 4095 < (withI 0xFFE State.reset).i.toNat + 2 ∧
    (withI 0xFFF State.reset).i.toNat + (0 : Reg).val ≤ 4095 ∧ 4095 < (withI 0x1000 State.reset).i.toNat + (0 : Reg).val ∧
    (withI 0xFF0 State.reset).i.toNat + (15 : Reg).val ≤ 4095 ∧ 4095 < (withI 0xFF1 State.reset).i.toNat + (15 : Reg).val := by
  decide

/-- The same for a sprite of one row and of fifteen. -/
theorem test_witness_Draws :
    (1 : Nibble) ≠ 0 ∧ (withI 0xFFF State.reset).i.toNat + (1 : Nibble).toNat - 1 ≤ 4095 ∧
    4095 < (withI 0x1000 State.reset).i.toNat + (1 : Nibble).toNat - 1 ∧
    (15 : Nibble) ≠ 0 ∧ (withI 0xFF1 State.reset).i.toNat + (15 : Nibble).toNat - 1 ≤ 4095 ∧
    4095 < (withI 0xFF2 State.reset).i.toNat + (15 : Nibble).toNat - 1 ∧ (0 : Reg) ≠ 15 ∧ (14 : Reg) ≠ 15 := by decide

/-- `LD [I], V1` at the last place it fits, over the last instruction that can be fetched, and `LD B`
over the second byte of one and the first of the next. -/
theorem test_witness_StoreIsSeen :
    ((withI 0xFFE (at' 0xFFC State.reset)).i.toNat + (1 : Reg).val ≤ 4095 ∧
      ∃ t, exec (.ldMemVx 1) (from0 (fun s => withI 0xFFE (at' 0xFFC (v 0 0x6A (v 1 0x42 s))))) = .next t ∧
        decide (t.pc.toNat + 1 ≤ 4095 ∧ t.fetch = .ok 0x6A42) = true) ∧
    ((withI 0xFFD State.reset).i.toNat + 2 ≤ 4095 ∧
      ∃ t, exec (.ldBVx 0) (from0 (fun s => withI 0xFFD (at' 0xFFA (v 0 123 s)))) = .next t ∧
        decide (t.pc.toNat + 1 ≤ 4095 ∧ t.fetch = .ok 0x0001) = true ∧
        decide ((at' 0xFFE t).fetch = .ok 0x0203) = true) := by
  refine ⟨⟨by decide, exists_of_execGoesTo (by decide)⟩, by decide, _, rfl, by decide, by decide⟩

/-- Members of the list of `ExtendedOpcodesReportAndGoOn`, its first and its last. -/
theorem test_witness_Extended :
    (0x00CF#16, Instr.scdN 15) ∈ [(0x00C0#16 ||| (15 : Nibble).setWidth 16, Instr.scdN 15), (0x00FB#16, .scr)] ∧
    (0xFF85#16, Instr.ldVxR 15) ∈ [(formXkk 0xF 15 0x75, Instr.ldRVx 15), (formXkk 0xF 15 0x85, .ldVxR 15)] := by decide

/-- Every instruction that can latch a fault, latching it from a state without one. -/
theorem test_witness_FatalFaults :
    (State.running (from0 (withSp 15)) ∧ ∃ t, exec (.callNnn 0) (from0 (withSp 15)) = .next t ∧
      t.fault = some ⟨.stackOverflow, 0x200⟩) ∧
    (State.running State.reset ∧ ∃ t, exec .ret State.reset = .next t ∧
      t.fault = some ⟨.stackUnderflow, 0x200⟩) ∧
    (State.running (from0 (v 3 16)) ∧ ∃ t, exec (.skpVx 3) (from0 (v 3 16)) = .next t ∧
      t.fault = some ⟨.keyIndexFault 16, 0x200⟩) ∧
    (State.running (from0 (v 3 16)) ∧ ∃ t, exec (.sknpVx 3) (from0 (v 3 16)) = .next t ∧
      t.fault = some ⟨.keyIndexFault 16, 0x200⟩) ∧
    (State.running (from0 (withI 0xFFE)) ∧ ∃ t, exec (.ldBVx 3) (from0 (withI 0xFFE)) = .next t ∧
      t.fault = some ⟨.addressFault .data 0x1000, 0x200⟩) ∧
    (State.running (from0 (withI 0xFFF)) ∧ ∃ t, exec (.ldMemVx 1) (from0 (withI 0xFFF)) = .next t ∧
      t.fault = some ⟨.addressFault .data 0x1000, 0x200⟩) ∧
    (State.running (from0 (withI 0xFFF)) ∧ ∃ t, exec (.ldVxMem 1) (from0 (withI 0xFFF)) = .next t ∧
      t.fault = some ⟨.addressFault .data 0x1000, 0x200⟩) ∧
    (State.running (from0 (withI 0xFFF)) ∧ ∃ t, exec (.drwVxVyN 1 2 2) (from0 (withI 0xFFF)) = .next t ∧
      t.fault = some ⟨.addressFault .data 0x1000, 0x200⟩) :=
  ⟨⟨rfl, _, rfl, rfl⟩, ⟨rfl, _, rfl, rfl⟩, ⟨rfl, _, rfl, rfl⟩, ⟨rfl, _, rfl, rfl⟩,
    ⟨rfl, _, rfl, rfl⟩, ⟨rfl, _, rfl, rfl⟩, ⟨rfl, _, rfl, rfl⟩, ⟨rfl, _, rfl, rfl⟩⟩

/-- Each element changed by an instruction the access matrix names. -/
theorem test_witness_AccessMatrix :
    (∃ t, exec .cls (from0 (fun s => s.setPixel 3 3 true)) = .next t ∧ decide (t.fb ≠ (from0 (fun s => s.setPixel 3 3 true)).fb ∧ t.df) = true) ∧
    (∃ t, exec (.ldBVx 0) (from0 (fun s => withI 0x300 (v 0 255 s))) = .next t ∧ decide (t.mem ≠ []) = true) ∧
    (∃ t, exec (.callNnn 0x300) State.reset = .next t ∧ decide (t.stack ≠ State.reset.stack ∧ t.sp ≠ 0) = true) ∧
    (∃ t, exec .ret (from0 (withSp 1)) = .next t ∧ decide (t.sp ≠ 1) = true) ∧
    (∃ t, exec (.ldINnn 5) State.reset = .next t ∧ decide (t.i ≠ 0) = true) ∧
    (∃ t, exec (.ldDtVx 0) (from0 (v 0 1)) = .next t ∧ decide (t.dt ≠ 0) = true) ∧
    (∃ t, exec (.ldStVx 0) (from0 (v 0 1)) = .next t ∧ decide (t.st ≠ 0) = true) ∧
    (∃ t, exec (.ldVxK 0) State.reset = .next t ∧ decide (t.wait ≠ .resume) = true) :=
  ⟨exists_of_execGoesTo (by decide), exists_of_execGoesTo (by decide), exists_of_execGoesTo (by decide),
    exists_of_execGoesTo (by decide), exists_of_execGoesTo (by decide), exists_of_execGoesTo (by decide),
    exists_of_execGoesTo (by decide), exists_of_execGoesTo (by decide)⟩

/-- The clauses on registers, `REPORT`, `FAULT`, `JF` and `PC`: a destination, the flag as a side effect,
the last register of a load, a report, a fault, a jump, and an instruction that only goes on. -/
theorem test_witness_AccessMatrix_registers_and_control :
    (∃ t, exec (.ldVxKk 3 1) State.reset = .next t ∧ decide (t.v 3 ≠ 0 ∧ t.running ∧ t.jf = false) = true) ∧
    (∃ t, exec (.subVxVy 3 4) State.reset = .next t ∧ decide (t.v 15 ≠ 0) = true) ∧
    (∃ t, exec (.ldVxMem 4) State.reset = .next t ∧ decide (t.v 4 ≠ 0 ∧ t.v 5 = 0) = true) ∧
    (∃ t, exec .exit State.reset = .next t ∧ decide (t.report ≠ none ∧ t.pc = 0x202) = true) ∧
    (∃ t, exec .ret State.reset = .next t ∧ decide (t.fault ≠ none ∧ ¬ t.running ∧ t.pc = 0x200) = true) ∧
    (∃ t, exec (.jpNnn 0xFFF) State.reset = .next t ∧ decide (t.jf = true ∧ t.running) = true) :=
  ⟨exists_of_execGoesTo (by decide), exists_of_execGoesTo (by decide), exists_of_execGoesTo (by decide),
    exists_of_execGoesTo (by decide), exists_of_execGoesTo (by decide), exists_of_execGoesTo (by decide)⟩

/-- Three choices of the hypotheses: an instruction that reads neither input, a shift under the same
quirk and another `CLOCK_KHZ`, a `RND` with the same random byte. -/
theorem test_witness_ReadsNoOtherInput :
    ((∀ x y, Instr.cls ≠ .shrVxVy x y ∧ Instr.cls ≠ .shlVxVy x y) ∧ ∀ x kk, Instr.cls ≠ .rndVxKk x kk) ∧
    (({ State.reset.settings with clockKhz := 9 } : Settings).shiftQuirk = State.reset.settings.shiftQuirk ∧
      ∀ x kk, Instr.shrVxVy 0 1 ≠ .rndVxKk x kk) ∧
    ((∀ x y, Instr.rndVxKk 0 1 ≠ .shrVxVy x y ∧ Instr.rndVxKk 0 1 ≠ .shlVxVy x y) ∧
      (gateClosed State.reset).pending.inputs.rnd = State.reset.pending.inputs.rnd) := by
  refine ⟨⟨fun x y => ⟨nofun, nofun⟩, fun x kk => nofun⟩, ⟨rfl, fun x kk => nofun⟩, fun x y => ⟨nofun, nofun⟩, rfl⟩

theorem test_witness_ReportOutputs : State.reset.ticking := ⟨rfl, rfl, rfl⟩

/-- A host that changes the settings together with a reset. -/
theorem test_witness_ConfigurationChanges :
    ∃ t, step { State.reset with pending := { State.reset.pending with
        cmd := .reset, settings := some { shiftQuirk := true, clockKhz := 2 } } } = .next t ∧
      decide (t.settings ≠ State.reset.settings) = true := exists_of_goesTo (by decide)

/-- A state in which every clause of the invariant about a transient element says something: a key
latched and down, memory and stack written, `ST` running. -/
def waitingState : State :=
  { from0 (fun s => (keysDown 0x0008 (v 5 3 (withWait (.waitForRelease 5) (withStack 15 0xFFF (s.setByte 0xFFF 1))))).sampleKeys)
    with st := 2, tone := true, loadOpen := false }

theorem test_witness_Invariant_waiting : waitingState.Inv ∧ ∃ t, step waitingState = .next t ∧
    decide (t.wait = .waitForRelease 5) = true := by
  refine ⟨⟨by decide, by decide, by decide, ⟨by decide, by decide⟩, rfl, rfl, ?_, nofun⟩, exists_of_goesTo (by decide)⟩
  intro r h
  cases h
  exact ⟨3, by decide, by decide⟩

/-- A state with a latched fault that meets the invariant. -/
theorem test_witness_Invariant_faulted : ({ faulted State.reset with loadOpen := false } : State).Inv := by
  refine ⟨by decide, by decide, by decide, ⟨by decide, by decide⟩, rfl, rfl, nofun, ?_⟩
  intro f h
  cases h
  exact ⟨rfl, rfl, rfl, rfl, rfl⟩

/-- The second case of `InvariantStatesNeverStopOnATick`. -/
theorem test_witness_Invariant_load_refused :
    (cmd (.load []) waitingState).Inv ∧ (cmd (.load []) waitingState).loadOpen = false ∧
    step (cmd (.load []) waitingState) = .refused .loadOutsideWindow := by
  refine ⟨?_, rfl, rfl⟩
  have h := test_witness_Invariant_waiting.1
  exact ⟨h.1, h.2, h.3, h.4, h.5, h.6, h.7, h.8⟩

/-- A start state of an open-gate tick whose instruction is `w`. -/
def openGate (w : Word) (change : State → State) : Prop :=
  (start w change).ticking ∧ (start w change).wait = .resume ∧ (start w change).pending.inputs.execDue = true ∧
    (start w change).atExecute.fetch = .ok w

/-- `OpenGateTickGoesThroughItsSteps`: a classic instruction with a key down and a timer counting, an
extended one, one that faults, a key wait with no key and with two, and a word that is no instruction. -/
theorem test_witness_OpenGate :
    (openGate 0xF315 (fun s => keysDown 0x0080 (timerDue (v 3 5 s))) ∧
      ∃ t, step (start 0xF315 (fun s => keysDown 0x0080 (timerDue (v 3 5 s)))) = .next t ∧
        decide (t.dt = 4 ∧ t.keyDown 7 ∧ t.report = none) = true) ∧
    (openGate 0x00FD id ∧ ∃ t, step (start 0x00FD id) = .next t ∧ decide (t.report = some (.notImplemented 0x00FD)) = true) ∧
    (openGate 0x00EE (fun s => keysDown 0x0001 (timerDue { s with dt := 5, tone := true })) ∧
      ∃ t, step (start 0x00EE (fun s => keysDown 0x0001 (timerDue { s with dt := 5, tone := true }))) = .next t ∧
        decide (t.fault = some ⟨.stackUnderflow, 0x200⟩ ∧ t.dt = 5 ∧ t.tone ∧ t.keyDown 0) = true) ∧
    (openGate 0xF50A id ∧ ∃ t, step (start 0xF50A id) = .next t ∧ decide (t.wait = .halt 5) = true) ∧
    (openGate 0xF50A (keysDown 0x8001) ∧
      ∃ t, step (start 0xF50A (keysDown 0x8001)) = .next t ∧ decide (t.wait = .waitForRelease 5 ∧ t.v 5 = 0) = true) ∧
    (openGate 0xF130 (keysDown 0x8000) ∧
      ∃ t, step (start 0xF130 (keysDown 0x8000)) = .next t ∧ decide (t.report = none ∧ t.keyDown 15) = true) :=
  ⟨⟨⟨⟨rfl, rfl, rfl⟩, rfl, rfl, rfl⟩, exists_of_goesTo (by decide)⟩,
    ⟨⟨⟨rfl, rfl, rfl⟩, rfl, rfl, rfl⟩, exists_of_goesTo (by decide)⟩,
    ⟨⟨⟨rfl, rfl, rfl⟩, rfl, rfl, rfl⟩, exists_of_goesTo (by decide)⟩,
    ⟨⟨⟨rfl, rfl, rfl⟩, rfl, rfl, rfl⟩, exists_of_goesTo (by decide)⟩,
    ⟨⟨⟨rfl, rfl, rfl⟩, rfl, rfl, rfl⟩, exists_of_goesTo (by decide)⟩,
    ⟨⟨rfl, rfl, rfl⟩, rfl, rfl, rfl⟩, exists_of_goesTo (by decide)⟩

end Sys2Proof.Tests
end

/-! ## The instruction cycle (40_instruction_cycle.md) -/

namespace Sys2Proof.Machine

/-! ### Steps 3 to 6 -/

theorem timerStep_st (s : State) :
    s.timerStep.st = if s.pending.inputs.timerDue = true ∧ s.st ≠ 0 then s.st - 1 else s.st := by
  unfold State.timerStep countDown
  split <;> split <;> simp_all

/-- Steps 3 to 6 of a tick that runs to its end, as one update; the wait step is what gives `V` and `WAIT`. -/
theorem afterExecute_eq {s t : State} (h : s.afterExecute = .next t) :
    t = { s with regs := t.regs, wait := t.wait, dt := s.timerStep.dt, st := s.timerStep.st
                 present := s.df, df := false, tone := decide (s.timerStep.st ≠ 0) } := by
  obtain ⟨u, hu, rfl⟩ := afterExecute_eq_next h
  obtain ⟨r, w, rfl⟩ : ∃ r w, u = { s with regs := r, wait := w } := ⟨_, _, waitStep_frame hu⟩
  rw [endTick_eq]
  unfold State.timerStep
  split <;> rfl

/-- Settles O17: `tone` and `ST` are read off the one update that steps 3 to 6 are. -/
theorem toneIsTheSoundTimerAfterTheTimerStep : Obligations.ToneIsTheSoundTimerAfterTheTimerStep := by
  intro u t h
  rw [afterExecute_eq h, ← timerStep_st]
  exact ⟨decide_eq_true_iff, rfl⟩

/-! ### What an instruction can do to the elements of a tick -/

/-- The instructions that raise the draw flag (10_state.md R39). -/
def raisesDrawFlag : Instr → Bool
  | .cls | .drwVxVyN _ _ _ => true
  | _ => false

theorem raisesDrawFlag_iff {i : Instr} :
    raisesDrawFlag i = true ↔ i = .cls ∨ ∃ x y n, i = .drwVxVyN x y n := by
  cases i <;> simp [raisesDrawFlag]

/-- `t` is what `i` may leave of `s` when it faults nowhere: the latch, the outputs, the keys, the
configuration and the host's moves stay, and `DF` goes up exactly for the two drawing instructions. -/
def Completes (i : Instr) (s t : State) : Prop :=
  t = { s with regs := t.regs, i := t.i, pc := t.pc, sp := t.sp, stack := t.stack, dt := t.dt, st := t.st
               fb := t.fb, wait := t.wait, jf := t.jf, report := t.report, mem := t.mem
               df := raisesDrawFlag i || s.df }

theorem Completes.df {i : Instr} {s t : State} (h : Completes i s t) : t.df = (raisesDrawFlag i || s.df) :=
  congrArg State.df h

theorem Completes.fault {i : Instr} {s t : State} (h : Completes i s t) : t.fault = s.fault := by
  rw [Completes] at h
  rw [h]

/-- A blit touches registers and pixels only. -/
theorem blit_frame (s : State) (x0 y0 n : Nat) :
    s.blit x0 y0 n = { s with regs := (s.blit x0 y0 n).regs, fb := (s.blit x0 y0 n).fb } := by
  rw [blit_eq, flipAll_eq]
  rfl

/-- What an instruction can answer (60_exceptions.md R204): `raise`, or a state it completes in. -/
def FaultsOrCompletes (i : Instr) (s : State) : Prop :=
  (∃ c, exec i s = .next (s.raise c)) ∨ ∃ t, exec i s = .next t ∧ Completes i s t

/-- A data access faults before anything changes, or goes on inside memory (20_memory.md R53). -/
theorem faultsOrCompletes_of_withData {i : Instr} {s go : State} {n : Nat} (he : exec i s = s.withData n go)
    (hgo : s.lastByte n ≤ 4095 → Completes i s go) : FaultsOrCompletes i s := by
  rcases withData_cases s n go with ⟨hin, e⟩ | ⟨-, e⟩
  · exact .inr ⟨go, he.trans e, hgo hin⟩
  · exact .inl ⟨_, he.trans e⟩

theorem completes_skipIf {i : Instr} (s : State) (c : Bool) (hi : raisesDrawFlag i = false) :
    Completes i s (s.skipIf c) := by
  rw [Completes, skipIf_eq, hi]
  rfl

/-- Everything an instruction can do, said once: it answers `raise` or completes, and has no third answer. -/
theorem faultsOrCompletes (i : Instr) (s : State) : FaultsOrCompletes i s := by
  cases i with
  | ret =>
    by_cases h : s.sp = 0
    · exact .inl ⟨.stackUnderflow, if_pos h⟩
    · exact .inr ⟨_, if_neg h, rfl⟩
  | callNnn nnn =>
    by_cases h : s.sp.toNat = Config.stackSlotsUsable
    · exact .inl ⟨.stackOverflow, if_pos h⟩
    · exact .inr ⟨_, if_neg h, rfl⟩
  | skpVx x =>
    cases hk : keyOf (s.v x) with
    | none => exact .inl ⟨.keyIndexFault (s.v x), by simp [exec, execSkpVx, hk]⟩
    | some k => exact .inr ⟨s.skipIf (s.keyDown k), by simp [exec, execSkpVx, hk], completes_skipIf s _ rfl⟩
  | sknpVx x =>
    cases hk : keyOf (s.v x) with
    | none => exact .inl ⟨.keyIndexFault (s.v x), by simp [exec, execSknpVx, hk]⟩
    | some k => exact .inr ⟨s.skipIf (!s.keyDown k), by simp [exec, execSknpVx, hk], completes_skipIf s _ rfl⟩
  | drwVxVyN x y n =>
    refine faultsOrCompletes_of_withData rfl fun _ => ?_
    rw [blit_frame]
    rfl
  | ldBVx x => exact faultsOrCompletes_of_withData rfl fun _ => rfl
  | ldMemVx x =>
    refine faultsOrCompletes_of_withData rfl fun hin => ?_
    rw [dump_eq _ s (by rw [length_regsThrough]; unfold State.lastByte at hin; omega)]
    rfl
  | ldVxMem x =>
    refine faultsOrCompletes_of_withData rfl fun hin => ?_
    obtain ⟨r, e, -, -⟩ := fill_eq (regsThrough x) s
      (by rw [length_regsThrough]; unfold State.lastByte at hin; omega) (nodup_regsThrough x)
    rw [e]
    rfl
  | seVxKk | sneVxKk | seVxVy | sneVxVy => exact .inr ⟨_, rfl, completes_skipIf s _ rfl⟩
  | _ => exact .inr ⟨_, rfl, rfl⟩

/-! ### A tick with its six steps -/

theorem gateOpen_beginTick {s : State} :
    s.beginTick.gateOpen = true ↔ s.wait = .resume ∧ s.pending.inputs.execDue = true := by
  rw [beginTick_eq]
  simp [State.gateOpen]

/-- Step 2 of a tick whose gate is open (R93, R208): a fault of the fetch, the decoder or the instruction
is raised, or the decoded instruction completes. -/
theorem executeOne_eq_next {s t : State} (h : executeOne s.beginTick = .next t) :
    (∃ c, t = s.atExecute.raise c) ∨
    ∃ w i, s.atExecute.fetch = .ok w ∧ decodeWord w = .ok i ∧ Completes i s.atExecute t := by
  rcases executeOne_cases s.beginTick with ⟨c, -, e⟩ | ⟨w, -, -, e⟩ | ⟨w, i, hw, hi, e⟩
  · exact .inl ⟨c, Host.Outcome.next.inj (h.symm.trans e)⟩
  · exact .inl ⟨_, Host.Outcome.next.inj (h.symm.trans e)⟩
  · rcases faultsOrCompletes i s.atExecute with ⟨c, e'⟩ | ⟨u, e', hc⟩
    · exact .inl ⟨c, Host.Outcome.next.inj (h.symm.trans (e.trans e'))⟩
    · obtain rfl := Host.Outcome.next.inj (h.symm.trans (e.trans e'))
      exact .inr ⟨w, i, hw, hi, hc⟩

/-- Everything a tick with its six steps can do (R90, R92, R101): the gate is closed and steps 3 to 6
follow step 1, or step 2 faults and ends the tick, or an instruction completes and steps 3 to 6 follow. -/
theorem ticking_step_cases {s t : State} (hs : s.ticking) (h : step s = .next t) :
    (¬ (s.wait = .resume ∧ s.pending.inputs.execDue = true) ∧
      ∃ u, s.beginTick.afterExecute = .next u ∧ t = u.takeNextMove) ∨
    ((s.wait = .resume ∧ s.pending.inputs.execDue = true) ∧ ∃ c, t = (s.atExecute.raise c).takeNextMove) ∨
    ((s.wait = .resume ∧ s.pending.inputs.execDue = true) ∧ ∃ w i v u, s.atExecute.fetch = .ok w ∧
      decodeWord w = .ok i ∧ Completes i s.atExecute v ∧ v.afterExecute = .next u ∧ t = u.takeNextMove) := by
  obtain ⟨hcmd, hreset, hfault⟩ := hs
  obtain ⟨u, hu, rfl⟩ : ∃ u, tick s = .next u ∧ t = u.takeNextMove := by
    rcases step_cases h with ⟨-, hu⟩ | ⟨hc, -⟩ | ⟨_, hc, -⟩
    · exact hu
    · rw [hcmd] at hc; cases hc
    · rw [hcmd] at hc; cases hc
  have hatFault : s.atExecute.fault = none := by rw [State.atExecute, beginTick_eq]; exact hfault
  rcases tick_cases s with ⟨hr, -⟩ | ⟨-, hf, -⟩ | ⟨-, -, hopen, e⟩ | ⟨-, -, hclosed, e⟩
  · simp [hreset] at hr
  · simp [hfault] at hf
  · obtain ⟨v, hv, hfin⟩ := andThen_eq_next (e.symm.trans hu)
    have hgate := gateOpen_beginTick.1 hopen
    rcases executeOne_eq_next hv with ⟨c, rfl⟩ | ⟨w, i, hw, hi, hc⟩
    · exact .inr (.inl ⟨hgate, c, congrArg _ (Host.Outcome.next.inj hfin).symm⟩)
    · refine .inr (.inr ⟨hgate, w, i, v, u, hw, hi, hc, ?_, rfl⟩)
      rcases finishTick_cases v with ⟨hf, -⟩ | ⟨-, e⟩
      · simp [hc.fault, hatFault] at hf
      · exact e.symm.trans hfin
  · refine .inl ⟨fun hgate => ?_, u, e.symm.trans hu, rfl⟩
    simp [gateOpen_beginTick.2 hgate] at hclosed

/-! ### `present` -/

theorem afterExecute_present {u t : State} (h : u.afterExecute = .next t) :
    t.present = u.df ∧ t.df = false ∧ t.fb = u.fb := by
  rw [afterExecute_eq h]
  exact ⟨rfl, rfl, rfl⟩

theorem afterExecute_fault {u t : State} (h : u.afterExecute = .next t) : t.fault = u.fault := by
  rw [afterExecute_eq h]

/-- `present` over a whole tick (R99), by the three ways a tick goes: a closed gate leaves `DF` at 0, a
fault ends the tick before step 5, and a completed instruction raises `DF` exactly if it draws. -/
theorem ticking_step_present_iff {s t : State} (hs : s.ticking) (hdf : s.df = false) (h : step s = .next t) :
    t.present = true ↔
      s.wait = .resume ∧ s.pending.inputs.execDue = true ∧ t.fault = none ∧
      ∃ w i, s.atExecute.fetch = .ok w ∧ decodeWord w = .ok i ∧
        (i = .cls ∨ ∃ x y n, i = .drwVxVyN x y n) := by
  have hat : s.atExecute.fault = none ∧ s.atExecute.df = false ∧ s.atExecute.present = false := by
    rw [State.atExecute, beginTick_eq]
    exact ⟨hs.2.2, hdf, rfl⟩
  obtain ⟨hatFault, hatDf, hatPresent⟩ := hat
  rcases ticking_step_cases hs h with ⟨hclosed, u, hu, rfl⟩ | ⟨-, c, rfl⟩ |
    ⟨⟨hwait, hdue⟩, w, i, v, u, hw, hi, hc, hu, rfl⟩
  · have hpresent : u.present = false := (afterExecute_present hu).1.trans hatDf
    rw [takeNextMove_present, hpresent]
    exact ⟨nofun, fun ⟨hwait, hdue, _⟩ => absurd ⟨hwait, hdue⟩ hclosed⟩
  · rw [takeNextMove_present, raise_present, hatPresent, takeNextMove_fault]
    exact ⟨nofun, fun ⟨_, _, hf, _⟩ => nomatch hf⟩
  · have hpresent : u.present = raisesDrawFlag i := by
      rw [(afterExecute_present hu).1, hc.df, hatDf, Bool.or_false]
    have hfault : u.fault = none := (afterExecute_fault hu).trans (hc.fault.trans hatFault)
    rw [takeNextMove_present, takeNextMove_fault, hpresent, raisesDrawFlag_iff]
    constructor
    · exact fun hd => ⟨hwait, hdue, hfault, w, i, hw, hi, hd⟩
    · rintro ⟨-, -, -, w', i', hw', hi', hd⟩
      obtain rfl : w = w' := Except.ok.inj (hw.symm.trans hw')
      obtain rfl : i = i' := Except.ok.inj (hi.symm.trans hi')
      exact hd

/-- A reset, asked for in either way (R96, 70_reset_and_hazards.md R230), leaves `present` at 0. -/
theorem reset_step_present {s t : State}
    (hs : s.pending.cmd = .reset ∨ s.pending.inputs.resetReq = true ∧ s.pending.cmd = .tick)
    (h : step s = .next t) : t.present = false := by
  have ht : t = s.doReset.takeNextMove := by
    rcases step_cases h with ⟨hc, u, hu, rfl⟩ | ⟨-, ht⟩ | ⟨_, hc, -⟩
    · have hr : s.pending.inputs.resetReq = true := by simpa [hc] using hs
      have e : tick s = .next s.doReset := if_pos hr
      rw [Host.Outcome.next.inj (hu.symm.trans e)]
    · exact ht
    · simp [hc] at hs
  rw [ht, takeNextMove_present]
  rfl

/-- Settles O16: the present step from the update of steps 3 to 6, whole ticks by their three ways. -/
theorem presentFollowsTheDrawFlag : Obligations.PresentFollowsTheDrawFlag :=
  ⟨fun _ _ => afterExecute_present, fun _ _ => ticking_step_present_iff, fun _ _ => reset_step_present⟩

end Sys2Proof.Machine

/-! ## Control transfer (41_control_transfer.md) -/

namespace Sys2Proof.Machine

/-- Family 1 has one row (30_encoding.md R74): its word decodes to the jump to its twelve-bit field. -/
theorem decodeWord_formNnn_jump (nnn : Addr) : decodeWord (formNnn 0x1 nnn) = .ok (.jpNnn nnn) :=
  decodeWord_of_row (by simp [decodeRow])

theorem exec_jpNnn (nnn : Addr) (s : State) : exec (.jpNnn nnn) s = .next (s.jumpTo (addrOperand nnn)) := rfl

@[simp] theorem addrOperand_toNat (nnn : Addr) : (addrOperand nnn).toNat = nnn.toNat :=
  BitVec.toNat_setWidth_of_le (by decide)

@[simp] theorem jumpTo_pc_toNat (s : State) (w : Word) : (s.jumpTo w).pc.toNat = w.toNat % 4096 := by
  rw [jumpTo_eq]
  exact wrapPc_toNat _

@[simp] theorem jumpTo_jf (s : State) (w : Word) : (s.jumpTo w).jf = true := rfl

theorem jumpTo_changesPcOnly (s : State) (w : Word) : ChangesPcOnly s (s.jumpTo w) := by
  rw [jumpTo_eq]
  exact ⟨rfl, fun _ => rfl⟩

/-- Settles O21: the advance reduces the target modulo 4096, which a twelve-bit address survives. -/
theorem jumpGoesToItsAddress : Obligations.JumpGoesToItsAddress := by
  intro nnn s
  have hpc : (s.jumpTo (addrOperand nnn)).pc.toNat = nnn.toNat := by
    rw [jumpTo_pc_toNat, addrOperand_toNat]
    exact Nat.mod_eq_of_lt nnn.isLt
  exact ⟨decodeWord_formNnn_jump nnn, _, exec_jpNnn nnn s, hpc, jumpTo_jf .., jumpTo_changesPcOnly ..⟩

end Sys2Proof.Machine

/-! ## Extended opcodes (46_extended.md) -/

namespace Sys2Proof.Machine

/-- `00Cn` as the composed word of its row (46_extended.md R181). -/
theorem encode_scdN (n : Nibble) : encode (.scdN n) = 0x00C0#16 ||| n.setWidth 16 := by
  revert n
  decide

/-- No extended opcode has an ignored nibble, so its encoding is the one word that decodes to it
(log entry 10). -/
theorem decodeWord_encode_of_isExtended {i : Instr} (h : isExtended i = true) :
    decodeWord (encode i) = .ok i := by
  cases i with
  | scdN n => revert n; decide
  | scr | scl | exit | low | high => rfl
  | drwVxVy0 x y => exact decodeWord_of_row (by simp [encode, decodeRow, decodeFamilyD])
  | ldRVx x | ldVxR x => exact decodeWord_of_row (by simp [encode, decodeRow, decodeFamilyF])
  | _ => exact nomatch h

/-- R180: the nine extended opcodes have one meaning, which takes the operands from the word alone. -/
theorem exec_of_isExtended {i : Instr} (h : isExtended i = true) (s : State) :
    exec i s = s.notImplemented (encode i) := by
  cases i with
  | scdN | scr | scl | exit | low | high | drwVxVy0 | ldRVx | ldVxR => rfl
  | _ => exact nomatch h

/-- R180, with the advance: the report, `PC` two further, `JF` 0 and nothing else. -/
theorem notImplemented_reportsAndGoesOn (s : State) (w : Word) :
    ∃ t, s.notImplemented w = .next t ∧ t.report = some (.notImplemented w) ∧ AtNextInstr s t ∧ t.jf = false ∧
      t = { s with report := t.report, pc := t.pc, jf := t.jf } ∧ SameMemory s t := by
  refine ⟨_, rfl, retire_report .., wrapPc_toNat _, retire_jf .., ?_, fun _ => rfl⟩
  rw [retire_eq]
  rfl

/-- Settles O48: each listed word is the encoding of its extended opcode, and those share one meaning. -/
theorem extendedOpcodesReportAndGoOn : Obligations.ExtendedOpcodesReportAndGoOn := by
  intro n x s w i hmem
  obtain ⟨hext, rfl⟩ : isExtended i = true ∧ w = encode i := by
    simp only [List.mem_cons, Prod.mk.injEq, List.not_mem_nil, or_false] at hmem
    rcases hmem with ⟨rfl, rfl⟩ | ⟨rfl, rfl⟩ | ⟨rfl, rfl⟩ | ⟨rfl, rfl⟩ | ⟨rfl, rfl⟩ | ⟨rfl, rfl⟩ |
      ⟨rfl, rfl⟩ | ⟨rfl, rfl⟩
    · exact ⟨rfl, (encode_scdN n).symm⟩
    all_goals exact ⟨rfl, rfl⟩
  rw [exec_of_isExtended hext]
  exact ⟨decodeWord_encode_of_isExtended hext, rfl, notImplemented_reportsAndGoesOn s _⟩

end Sys2Proof.Machine

/-! ## Decoder and encoder (30_encoding.md) -/

namespace Sys2Proof

/-! ### A word is made of its fields (R71, R72) -/

theorem formNnn_fields {w : Word} {op : BitVec 4} (h : opField w = op) : formNnn op (nnnField w) = w := by
  subst h
  exact (BitVec.extractLsb'_append_extractLsb'_eq_extractLsb' rfl).trans BitVec.extractLsb'_eq_self

theorem formXkk_fields {w : Word} {op : BitVec 4} (h : opField w = op) :
    formXkk op (xField w) (kkField w) = w := by
  subst h
  have hx : opField w ++ (BitVec.ofFin (xField w) : BitVec 4) = w.extractLsb' 8 8 :=
    BitVec.extractLsb'_append_extractLsb'_eq_extractLsb' rfl
  rw [formXkk, hx]
  exact (BitVec.extractLsb'_append_extractLsb'_eq_extractLsb' rfl).trans BitVec.extractLsb'_eq_self

theorem formXyn_fields {w : Word} {op : BitVec 4} (h : opField w = op) :
    formXyn op (xField w) (yField w) (nField w) = w := by
  subst h
  have hx : opField w ++ (BitVec.ofFin (xField w) : BitVec 4) = w.extractLsb' 8 8 :=
    BitVec.extractLsb'_append_extractLsb'_eq_extractLsb' rfl
  have hy : w.extractLsb' 8 8 ++ (BitVec.ofFin (yField w) : BitVec 4) = w.extractLsb' 4 12 :=
    BitVec.extractLsb'_append_extractLsb'_eq_extractLsb' rfl
  rw [formXyn, hx, hy]
  exact (BitVec.extractLsb'_append_extractLsb'_eq_extractLsb' rfl).trans BitVec.extractLsb'_eq_self

/-- The canonical form of a word whose low nibble is ignored (R77). -/
theorem formXyn_fields_zero {w : Word} {op : BitVec 4} (h : opField w = op) :
    formXyn op (xField w) (yField w) 0 = w &&& 0xFFF0 := by
  refine BitVec.eq_of_getLsbD_eq fun j hj => ?_
  conv_rhs => rw [← formXyn_fields h]
  rw [BitVec.getLsbD_and, getLsbD_formXyn, getLsbD_formXyn]
  by_cases h : j < 4
  · have hm : ∀ j : Fin 16, j.val < 4 → (0xFFF0 : Word).getLsbD j.val = false := by decide
    rw [hm ⟨j, hj⟩ h]
    simp [h]
  · have hm : ∀ j : Fin 16, ¬ j.val < 4 → (0xFFF0 : Word).getLsbD j.val = true := by decide
    rw [hm ⟨j, hj⟩ h]
    simp [h]

/-! ### Decoding an encoding -/

/-- Settles O1, constructor by constructor: the fields of the composed word select the row back. Only the
classic draw needs its well-formedness, which keeps it apart from the extended one. -/
theorem decodeOfEncodeIsTheInstruction : Obligations.DecodeOfEncodeIsTheInstruction := by
  intro i hwf
  cases i with
  | scdN | scr | scl | exit | low | high | drwVxVy0 | ldRVx | ldVxR =>
    exact Machine.decodeWord_encode_of_isExtended rfl
  | cls | ret => rfl
  | drwVxVyN x y n =>
    have hn : n ≠ 0 := by simpa [Instr.wellFormed] using hwf
    exact decodeWord_of_row (by simpa [encode, decodeRow, decodeFamilyD] using hn)
  | jpNnn | callNnn | ldINnn | jpV0Nnn => exact decodeWord_of_row (by simp [encode, decodeRow])
  | seVxKk | sneVxKk | ldVxKk | addVxKk | rndVxKk => exact decodeWord_of_row (by simp [encode, decodeRow])
  | seVxVy | sneVxVy => exact decodeWord_of_row (by simp [encode, decodeRow])
  | ldVxVy | orVxVy | andVxVy | xorVxVy | addVxVy | subVxVy | shrVxVy | subnVxVy | shlVxVy =>
    exact decodeWord_of_row (by simp [encode, decodeRow, decodeFamily8])
  | skpVx | sknpVx => exact decodeWord_of_row (by simp [encode, decodeRow, decodeFamilyE])
  | ldVxDt | ldVxK | ldDtVx | ldStVx | addIVx | ldFVx | ldBVx | ldMemVx | ldVxMem =>
    exact decodeWord_of_row (by simp [encode, decodeRow, decodeFamilyF])

/-! ### Encoding what a family decodes -/

/-- `i` is a well-formed instruction whose word is `w`. -/
def EncodedBy (w : Word) (i : Instr) : Prop := i.wellFormed = true ∧ encode i = w

/-- One decision of the decoder: it is taken, or the later ones decide. -/
theorem taken_or_later {c : Prop} [Decidable c] {now later r : Option Instr}
    (h : (if c then now else later) = r) : (c ∧ now = r) ∨ (¬ c ∧ later = r) := by
  by_cases hc : c
  · exact .inl ⟨hc, by simpa [hc] using h⟩
  · exact .inr ⟨hc, by simpa [hc] using h⟩

theorem decodeFamily0_encodedBy {w : Word} {i : Instr} (h : decodeFamily0 w = some i) : EncodedBy w i := by
  rcases taken_or_later h with ⟨hscd, ⟨⟩⟩ | ⟨-, h⟩
  · refine ⟨rfl, ?_⟩
    rw [encode, ← hscd]
    exact (BitVec.extractLsb'_append_extractLsb'_eq_extractLsb' rfl).trans BitVec.extractLsb'_eq_self
  · iterate 7 (rcases taken_or_later h with ⟨rfl, ⟨⟩⟩ | ⟨-, h⟩; · exact ⟨rfl, rfl⟩)
    cases h

theorem decodeFamily8_encodedBy {x y : Reg} {n : Nibble} {i : Instr} (h : decodeFamily8 x y n = some i) :
    EncodedBy (formXyn 0x8 x y n) i := by
  iterate 9 (rcases taken_or_later h with ⟨rfl, ⟨⟩⟩ | ⟨-, h⟩; · exact ⟨rfl, rfl⟩)
  cases h

theorem decodeFamilyD_encodedBy {x y : Reg} {n : Nibble} {i : Instr} (h : decodeFamilyD x y n = some i) :
    EncodedBy (formXyn 0xD x y n) i := by
  rcases taken_or_later h with ⟨rfl, ⟨⟩⟩ | ⟨hn, h⟩
  · exact ⟨rfl, rfl⟩
  · cases h
    exact ⟨by simpa [Instr.wellFormed] using hn, rfl⟩

theorem decodeFamilyE_encodedBy {x : Reg} {kk : Byte} {i : Instr} (h : decodeFamilyE x kk = some i) :
    EncodedBy (formXkk 0xE x kk) i := by
  iterate 2 (rcases taken_or_later h with ⟨rfl, ⟨⟩⟩ | ⟨-, h⟩; · exact ⟨rfl, rfl⟩)
  cases h

theorem decodeFamilyF_encodedBy {x : Reg} {kk : Byte} {i : Instr} (h : decodeFamilyF x kk = some i) :
    EncodedBy (formXkk 0xF x kk) i := by
  iterate 11 (rcases taken_or_later h with ⟨rfl, ⟨⟩⟩ | ⟨-, h⟩; · exact ⟨rfl, rfl⟩)
  cases h

/-! ### The families, by their first nibble -/

/-- The word with its low nibble 0 where its family ignores it (R77). -/
def canonical (w : Word) : Word := if opField w = 0x5 ∨ opField w = 0x9 then w &&& 0xFFF0 else w

theorem EncodedBy.of_plainFamily {w : Word} {op : BitVec 4} {i : Instr} (h : EncodedBy w i) (hop : opField w = op)
    (h59 : ¬ (op = 0x5 ∨ op = 0x9)) : EncodedBy (canonical w) i := by
  subst hop
  rwa [canonical, if_neg h59]

theorem encodedBy_ignoredNibble {w : Word} {op : BitVec 4} {i : Instr} (hop : opField w = op)
    (h59 : op = 0x5 ∨ op = 0x9) (hwf : i.wellFormed = true)
    (he : encode i = formXyn op (xField w) (yField w) 0) : EncodedBy (canonical w) i := by
  refine ⟨hwf, ?_⟩
  rw [he, formXyn_fields_zero hop, canonical, if_pos (hop ▸ h59)]

/-- What the decoder answers is encoded by the word, family after family (R74). -/
theorem decodeRow_encodedBy {w : Word} {i : Instr} (h : decodeRow w = some i) : EncodedBy (canonical w) i := by
  rcases taken_or_later h with ⟨hop, h⟩ | ⟨hne, h⟩
  · exact (decodeFamily0_encodedBy h).of_plainFamily hop (by decide)
  iterate 2
    rcases taken_or_later h with ⟨hop, ⟨⟩⟩ | ⟨hne, h⟩
    · exact .of_plainFamily ⟨rfl, formNnn_fields hop⟩ hop (by decide)
  iterate 2
    rcases taken_or_later h with ⟨hop, ⟨⟩⟩ | ⟨hne, h⟩
    · exact .of_plainFamily ⟨rfl, formXkk_fields hop⟩ hop (by decide)
  rcases taken_or_later h with ⟨hop, ⟨⟩⟩ | ⟨hne, h⟩
  · exact encodedBy_ignoredNibble hop (by decide) rfl rfl
  iterate 2
    rcases taken_or_later h with ⟨hop, ⟨⟩⟩ | ⟨hne, h⟩
    · exact .of_plainFamily ⟨rfl, formXkk_fields hop⟩ hop (by decide)
  rcases taken_or_later h with ⟨hop, h⟩ | ⟨hne, h⟩
  · exact (formXyn_fields hop ▸ decodeFamily8_encodedBy h).of_plainFamily hop (by decide)
  rcases taken_or_later h with ⟨hop, ⟨⟩⟩ | ⟨hne, h⟩
  · exact encodedBy_ignoredNibble hop (by decide) rfl rfl
  iterate 2
    rcases taken_or_later h with ⟨hop, ⟨⟩⟩ | ⟨hne, h⟩
    · exact .of_plainFamily ⟨rfl, formNnn_fields hop⟩ hop (by decide)
  rcases taken_or_later h with ⟨hop, ⟨⟩⟩ | ⟨hne, h⟩
  · exact .of_plainFamily ⟨rfl, formXkk_fields hop⟩ hop (by decide)
  rcases taken_or_later h with ⟨hop, h⟩ | ⟨hne, h⟩
  · exact (formXyn_fields hop ▸ decodeFamilyD_encodedBy h).of_plainFamily hop (by decide)
  rcases taken_or_later h with ⟨hop, h⟩ | ⟨hne, h⟩
  · exact (formXkk_fields hop ▸ decodeFamilyE_encodedBy h).of_plainFamily hop (by decide)
  have hop : opField w = 0xF := by bv_omega
  exact (formXkk_fields hop ▸ decodeFamilyF_encodedBy h).of_plainFamily hop (by decide)

/-- Settles O2: family by family; the canonical form of the word is what the encoder writes. -/
theorem encodeOfDecodeIsTheWordButIgnoredNibbles : Obligations.EncodeOfDecodeIsTheWordButIgnoredNibbles :=
  fun _ _ h => decodeRow_encodedBy (decodeRow_of_ok h)

/-! ### The words that decode to nothing -/

theorem row_eq_none {c : Prop} [Decidable c] {j : Instr} {later : Option Instr} :
    (if c then some j else later) = none ↔ ¬ c ∧ later = none := by
  split <;> simp [*]

theorem scdField_iff (w : Word) : w.extractLsb' 4 12 = 0x00C#12 ↔ 0x00C0 ≤ w.toNat ∧ w.toNat ≤ 0x00CF := by
  have h : (w.extractLsb' 4 12).toNat = w.toNat / 16 := by
    rw [BitVec.extractLsb'_toNat, Nat.shiftRight_eq_div_pow]
    omega
  rw [← BitVec.toNat_inj, h]
  change w.toNat / 16 = 12 ↔ _
  omega

theorem decodeFamily0_eq_none {w : Word} :
    decodeFamily0 w = none ↔ ¬ (0x00C0 ≤ w.toNat ∧ w.toNat ≤ 0x00CF) ∧
      w ∉ [0x00E0#16, 0x00EE#16, 0x00FB#16, 0x00FC#16, 0x00FD#16, 0x00FE#16, 0x00FF#16] := by
  rw [← scdField_iff]
  simp [decodeFamily0, row_eq_none]

theorem decodeFamily8_eq_none {x y : Reg} {n : Nibble} :
    decodeFamily8 x y n = none ↔ n ∈ [0x8#4, 0x9#4, 0xA#4, 0xB#4, 0xC#4, 0xD#4, 0xF#4] := by
  have hrest : ∀ n : Nibble, n ∈ [0x8#4, 0x9#4, 0xA#4, 0xB#4, 0xC#4, 0xD#4, 0xF#4] ↔
      n ∉ [0x0#4, 0x1#4, 0x2#4, 0x3#4, 0x4#4, 0x5#4, 0x6#4, 0x7#4, 0xE#4] := by decide
  rw [hrest]
  simp [decodeFamily8, row_eq_none]

theorem decodeFamilyD_ne_none {x y : Reg} {n : Nibble} : decodeFamilyD x y n ≠ none := by
  unfold decodeFamilyD
  split <;> exact nofun

theorem decodeFamilyE_eq_none {x : Reg} {kk : Byte} :
    decodeFamilyE x kk = none ↔ kk ∉ [0x9E#8, 0xA1#8] := by
  simp [decodeFamilyE, row_eq_none]

theorem decodeFamilyF_eq_none {x : Reg} {kk : Byte} :
    decodeFamilyF x kk = none ↔ kk ∉
      [0x07#8, 0x0A#8, 0x15#8, 0x18#8, 0x1E#8, 0x29#8, 0x33#8, 0x55#8, 0x65#8, 0x75#8, 0x85#8] := by
  simp [decodeFamilyF, row_eq_none]

/-- Only four families have words that match no row (R75). -/
theorem decodeRow_eq_none {w : Word} :
    decodeRow w = none ↔
      (opField w = 0x0 ∧ decodeFamily0 w = none) ∨
      (opField w = 0x8 ∧ decodeFamily8 (xField w) (yField w) (nField w) = none) ∨
      (opField w = 0xE ∧ decodeFamilyE (xField w) (kkField w) = none) ∨
      (opField w = 0xF ∧ decodeFamilyF (xField w) (kkField w) = none) := by
  constructor
  · intro h
    rcases taken_or_later h with h | ⟨hne, h⟩
    · exact .inl h
    iterate 7 rcases taken_or_later h with ⟨-, ⟨⟩⟩ | ⟨hne, h⟩
    rcases taken_or_later h with h | ⟨hne, h⟩
    · exact .inr (.inl h)
    iterate 4 rcases taken_or_later h with ⟨-, ⟨⟩⟩ | ⟨hne, h⟩
    rcases taken_or_later h with ⟨-, h⟩ | ⟨hne, h⟩
    · exact absurd h decodeFamilyD_ne_none
    rcases taken_or_later h with h | ⟨hne, h⟩
    · exact .inr (.inr (.inl h))
    exact .inr (.inr (.inr ⟨by bv_omega, h⟩))
  · rintro (⟨hop, h⟩ | ⟨hop, h⟩ | ⟨hop, h⟩ | ⟨hop, h⟩) <;> simp [decodeRow, hop, h]

theorem decodeWord_eq_failure {w : Word} : decodeWord w = .error (.decodeFailure w) ↔ decodeRow w = none := by
  unfold decodeWord
  cases decodeRow w <;> simp

/-- Settles O3, each failing family by its own list. -/
theorem decodeFailuresAreTheListedWords : Obligations.DecodeFailuresAreTheListedWords := by
  intro w
  refine ⟨?_, fun e => decodeWord_error⟩
  rw [decodeWord_eq_failure, decodeRow_eq_none, decodeFamily0_eq_none, decodeFamily8_eq_none,
    decodeFamilyE_eq_none, decodeFamilyF_eq_none]

/-- Settles O4, by running the decoder. -/
theorem sampleWordsDecode : Obligations.SampleWordsDecode := by
  unfold Obligations.SampleWordsDecode
  decide

end Sys2Proof

/-! ## What single instructions do: rules the statements share -/

namespace Sys2Proof.Machine

/-! ### The end of an instruction -/

theorem retire_atNextInstr {s u : State} (h : u.pc = s.pc) : AtNextInstr s (u.retire false) := by
  rw [AtNextInstr, retire_false_pc, wrapPc_toNat, h]

/-- An instruction that writes registers only, in the terms of the statements. -/
theorem retire_changesRegsOnly {s u : State} {P : Reg → Prop} (hu : u = { s with regs := u.regs })
    (hP : ∀ k, ¬ P k → u.v k = s.v k) :
    AtNextInstr s (u.retire false) ∧ (u.retire false).jf = false ∧ ChangesRegsOnly s (u.retire false) P := by
  obtain ⟨r, rfl⟩ : ∃ r, u = { s with regs := r } := ⟨_, hu⟩
  exact ⟨retire_atNextInstr rfl, retire_jf .., rfl, fun k hk => (v_retire ..).trans (hP k hk), fun _ => rfl⟩

theorem setV_changesRegsOnly (s : State) (x : Reg) (b : Byte) :
    AtNextInstr s ((s.setV x b).retire false) ∧ ((s.setV x b).retire false).jf = false ∧
      ChangesRegsOnly s ((s.setV x b).retire false) (· = x) :=
  retire_changesRegsOnly rfl fun _ hk => v_setV_other s b hk

/-! ### The two orders of the ALU (42_alu.md R130) -/

/-- The state after an instruction that writes its result and then the flag. -/
def State.afterResultThenFlag (s : State) (x : Reg) (r f : Byte) : State := (s.setResultThenFlag x r f).retire false

theorem v_afterResultThenFlag (s : State) {x : Reg} (r f : Byte) (hx : x ≠ vF) :
    (s.afterResultThenFlag x r f).v x = r := by
  rw [State.afterResultThenFlag, v_retire, v_setResultThenFlag, if_neg hx, if_pos rfl]

theorem flag_afterResultThenFlag (s : State) (x : Reg) (r f : Byte) : (s.afterResultThenFlag x r f).v vF = f := by
  rw [State.afterResultThenFlag, v_retire, v_setResultThenFlag, if_pos rfl]

theorem afterResultThenFlag_changesRegsOnly (s : State) (x : Reg) (r f : Byte) :
    AtNextInstr s (s.afterResultThenFlag x r f) ∧ (s.afterResultThenFlag x r f).jf = false ∧
      ChangesRegsOnly s (s.afterResultThenFlag x r f) (fun k => k = x ∨ k = vF) := by
  refine retire_changesRegsOnly rfl fun k hk => ?_
  rw [not_or] at hk
  rw [v_setResultThenFlag, if_neg hk.2, if_neg hk.1]

/-- The state after an instruction that zeroes the flag and then combines its operands. -/
def State.afterCombine (s : State) (x y : Reg) (op : Byte → Byte → Byte) : State :=
  (s.zeroFlagThenCombine x y op).retire false

theorem v_afterCombine (s : State) (x y : Reg) (op : Byte → Byte → Byte) :
    (s.afterCombine x y op).v x = op (if x = vF then 0 else s.v x) (if y = vF then 0 else s.v y) := by
  rw [State.afterCombine, v_retire, v_zeroFlagThenCombine, if_pos rfl]

theorem flag_afterCombine (s : State) {x : Reg} (y : Reg) (op : Byte → Byte → Byte) (hx : x ≠ vF) :
    (s.afterCombine x y op).v vF = 0 := by
  rw [State.afterCombine, v_retire, v_zeroFlagThenCombine, if_neg hx.symm, if_pos rfl]

theorem afterCombine_changesRegsOnly (s : State) (x y : Reg) (op : Byte → Byte → Byte) :
    AtNextInstr s (s.afterCombine x y op) ∧ (s.afterCombine x y op).jf = false ∧
      ChangesRegsOnly s (s.afterCombine x y op) (fun k => k = x ∨ k = vF) := by
  refine retire_changesRegsOnly rfl fun k hk => ?_
  rw [not_or] at hk
  rw [v_zeroFlagThenCombine, if_neg hk.1, if_neg hk.2]

theorem flagByte_toNat (c : Bool) : (flagByte c).toNat = if c then 1 else 0 := by cases c <;> rfl

/-! ### Data accesses through `I` (20_memory.md R53) -/

theorem withData_inRange {s go : State} {n : Nat} (h : s.lastByte n ≤ 4095) : s.withData n go = .next go := by
  rcases withData_cases s n go with ⟨-, e⟩ | ⟨h', -⟩
  · exact e
  · omega

theorem withData_outOfRange {s go : State} {n : Nat} (h : 4095 < s.lastByte n) :
    s.withData n go = .next (latched s (.addressFault .data (s.lastByte n))) := by
  rcases withData_cases s n go with ⟨h', -⟩ | ⟨-, e⟩
  · omega
  · exact e

/-- The state after a BCD store that faults nowhere (43_memory_index.md R153). -/
def State.afterBcd (s : State) (x : Reg) : State :=
  ({ s with mem := s.mem.writeBytes s.i.toNat (bcdDigits (s.v x)) }).retire false

theorem exec_ldBVx_inRange {x : Reg} {s : State} (h : s.i.toNat + 2 ≤ 4095) :
    exec (.ldBVx x) s = .next (s.afterBcd x) := withData_inRange h

theorem byteAt_afterBcd {s : State} {x : Reg} {k : Nat} (hk : k < 3) :
    (s.afterBcd x).byteAt (s.i.toNat + k) = (bcdDigits (s.v x))[k]'hk := by
  rw [State.afterBcd, byteAt_eq, retire_mem, Memory.read_writeBytes, if_pos (by omega), Nat.add_sub_cancel_left,
    List.getElem?_eq_getElem hk]
  rfl

theorem byteAt_afterBcd_outside {s : State} {x : Reg} {a : Nat} (h : a < s.i.toNat ∨ s.i.toNat + 3 ≤ a) :
    (s.afterBcd x).byteAt a = s.byteAt a := by
  have hlen : (bcdDigits (s.v x)).length = 3 := rfl
  rw [State.afterBcd, byteAt_eq, retire_mem, Memory.read_writeBytes]
  split
  · rw [List.getElem?_eq_none (by omega)]
    rfl
  · rfl

theorem bcdDigits_toNat (b : Byte) (k : Nat) (hk : k < 3) :
    ((bcdDigits b)[k]'hk).toNat = [b.toNat / 100, b.toNat / 10 % 10, b.toNat % 10][k]'hk := by
  have hb := b.isLt
  match k with
  | 0 | 1 | 2 => exact Nat.mod_eq_of_lt (by omega)

/-- The state after a dump that faults nowhere (43_memory_index.md R154). -/
def State.afterDump (s : State) (x : Reg) : State :=
  ({ s with mem := s.mem.writeBytes s.i.toNat ((regsThrough x).map s.v)
            i := BitVec.ofNat 16 (s.i.toNat + (x.val + 1)) }).retire false

theorem exec_ldMemVx_inRange {x : Reg} {s : State} (h : s.i.toNat + x.val ≤ 4095) :
    exec (.ldMemVx x) s = .next (s.afterDump x) := by
  refine (withData_inRange (n := x.val + 1) h).trans ?_
  rw [dump_eq _ s (by rw [length_regsThrough]; omega), length_regsThrough]
  rfl

theorem byteAt_afterDump {s : State} {x k : Reg} (hk : k ≤ x) :
    (s.afterDump x).byteAt (s.i.toNat + k.val) = s.v k := by
  have hk' : k.val ≤ x.val := hk
  rw [State.afterDump, byteAt_eq, retire_mem, Memory.read_writeBytes, if_pos (by omega), Nat.add_sub_cancel_left,
    List.getElem?_map, getElem_regsThrough, dif_pos hk']
  rfl

theorem byteAt_afterDump_outside {s : State} {x : Reg} {a : Nat} (h : a < s.i.toNat ∨ s.i.toNat + x.val < a) :
    (s.afterDump x).byteAt a = s.byteAt a := by
  rw [State.afterDump, byteAt_eq, retire_mem, Memory.read_writeBytes]
  split
  · rw [List.getElem?_eq_none (by rw [List.length_map, length_regsThrough]; omega)]
    rfl
  · rfl

theorem toNat_indexPast {s : State} {x : Reg} (h : s.i.toNat + x.val ≤ 4095) :
    (BitVec.ofNat 16 (s.i.toNat + (x.val + 1))).toNat = s.i.toNat + x.val + 1 := by
  rw [BitVec.toNat_ofNat]
  omega

/-- A register load that faults nowhere (43_memory_index.md R155): the file it leaves, and that this and
`I` are the whole change. -/
theorem exec_ldVxMem_inRange {x : Reg} {s : State} (h : s.i.toNat + x.val ≤ 4095) :
    ∃ r, exec (.ldVxMem x) s =
        .next (({ s with regs := r, i := BitVec.ofNat 16 (s.i.toNat + (x.val + 1)) }).retire false) ∧
      (∀ k : Reg, k ≤ x → r.get k = s.byteAt (s.i.toNat + k.val)) ∧ (∀ k : Reg, x < k → r.get k = s.v k) := by
  obtain ⟨r, e, hout, hin⟩ :=
    fill_eq (regsThrough x) s (by rw [length_regsThrough]; omega) (nodup_regsThrough x)
  refine ⟨r, (withData_inRange (n := x.val + 1) h).trans ?_, fun k hk => ?_, fun k hk => ?_⟩
  · rw [e, length_regsThrough]
  · exact hin k.val k (by rw [getElem_regsThrough]; exact dif_pos hk)
  · exact hout k (by rwa [mem_regsThrough, not_le])

/-! ### Drawing (44_display.md R161) -/

/-- The pixels of the set bits of the sprite that `I` points at. -/
def State.sprite (s : State) (x y : Reg) (n : Nat) : List (Fin 32 × Fin 64) :=
  spritePixels (fun r => s.byteAt (s.i.toNat + r)) ((s.v x).toNat % 64) ((s.v y).toNat % 32) n

/-- The state after a draw that faults nowhere. -/
def State.afterDraw (s : State) (x y : Reg) (n : Nat) : State :=
  ({ (s.setV vF 0).flipAll (s.sprite x y n) with df := true }).retire false

theorem exec_drwVxVyN_inRange {x y : Reg} {n : Nibble} {s : State} (h : s.lastByte n.toNat ≤ 4095) :
    exec (.drwVxVyN x y n) s = .next (s.afterDraw x y n.toNat) := by
  refine (withData_inRange h).trans ?_
  rw [blit_eq]
  rfl

/-- Reducing the coordinates before or after the offset of a bit is the same. -/
theorem mem_sprite {s : State} {x y : Reg} {n : Nat} {row : Fin 32} {col : Fin 64} :
    (row, col) ∈ s.sprite x y n ↔ s.spriteSets (s.v x).toNat (s.v y).toNat n row col := by
  simp only [State.sprite, mem_spritePixels, State.spriteSets, Nat.mod_add_mod]

theorem nodup_sprite (s : State) (x y : Reg) (n : Nibble) : (s.sprite x y n.toNat).Nodup :=
  nodup_spritePixels _ _ _ _ (by have := n.isLt; omega)

theorem afterDraw_eq (s : State) (x y : Reg) (n : Nat) :
    s.afterDraw x y n = { s with
      regs := (s.afterDraw x y n).regs, fb := (s.afterDraw x y n).fb, df := true
      pc := (s.afterDraw x y n).pc, jf := false } := by
  rw [State.afterDraw, flipAll_eq, retire_eq]
  rfl

theorem pixel_afterDraw (s : State) (x y : Reg) (n : Nibble) (row : Fin 32) (col : Fin 64) :
    (s.afterDraw x y n.toNat).pixel row col =
      if (row, col) ∈ s.sprite x y n.toNat then !s.pixel row col else s.pixel row col :=
  (pixel_of_fb (retire_fb ..) row col).trans (pixel_flipAll _ (s.setV vF 0) (nodup_sprite s x y n) row col)

theorem v_afterDraw (s : State) (x y : Reg) (n : Nibble) (k : Reg) :
    (s.afterDraw x y n.toNat).v k =
      if (∃ p ∈ s.sprite x y n.toNat, s.pixel p.1 p.2 = true) ∧ k = vF then 1 else (s.setV vF 0).v k :=
  (v_retire ..).trans (v_flipAll _ (s.setV vF 0) (nodup_sprite s x y n) k)

theorem afterDraw_atNextInstr (s : State) (x y : Reg) (n : Nat) : AtNextInstr s (s.afterDraw x y n) :=
  retire_atNextInstr (by rw [flipAll_eq]; rfl)

/-! ### Control transfer -/

theorem exec_callNnn_below {nnn : Addr} {s : State} (h : s.sp ≠ 15) :
    exec (.callNnn nnn) s = .next ((s.push s.pc).jumpTo (addrOperand nnn)) :=
  if_neg fun e => h (BitVec.eq_of_toNat_eq e)

theorem exec_callNnn_full {nnn : Addr} {s : State} (h : s.sp = 15) :
    exec (.callNnn nnn) s = .next (s.raise .stackOverflow) := if_pos (by rw [h]; rfl)

theorem exec_ret_empty {s : State} (h : s.sp = 0) : exec .ret s = .next (s.raise .stackUnderflow) := if_pos h

theorem exec_ret_above {s : State} (h : s.sp ≠ 0) :
    exec .ret s = .next (({ s with pc := s.stackAt s.sp, sp := s.sp - 1 }).retire false) := if_neg h

theorem exec_skpVx_key {x : Reg} {k : Fin 16} {s : State} (h : keyOf (s.v x) = some k) :
    exec (.skpVx x) s = .next (s.skipIf (s.keyDown k)) := by
  simp [exec, execSkpVx, h]

theorem exec_sknpVx_key {x : Reg} {k : Fin 16} {s : State} (h : keyOf (s.v x) = some k) :
    exec (.sknpVx x) s = .next (s.skipIf (!s.keyDown k)) := by
  simp [exec, execSknpVx, h]

theorem exec_skpVx_noKey {x : Reg} {s : State} (h : keyOf (s.v x) = none) :
    exec (.skpVx x) s = .next (s.raise (.keyIndexFault (s.v x))) := by
  simp [exec, execSkpVx, h]

theorem exec_sknpVx_noKey {x : Reg} {s : State} (h : keyOf (s.v x) = none) :
    exec (.sknpVx x) s = .next (s.raise (.keyIndexFault (s.v x))) := by
  simp [exec, execSknpVx, h]

/-- A skip, in the terms of the statements. -/
theorem skipIf_spec (s : State) (c : Bool) :
    (s.skipIf c).pc.toNat = (s.pc.toNat + if c then 4 else 2) % 4096 ∧ (s.skipIf c).jf = false ∧
      ChangesPcOnly s (s.skipIf c) := by
  rw [skipIf_eq]
  exact ⟨wrapPc_toNat _, rfl, rfl, fun _ => rfl⟩

end Sys2Proof.Machine

/-! ## Control transfer, settled (41_control_transfer.md) -/

namespace Sys2Proof.Machine

/-- Settles O22: the sum stays below 65536, so only the advance reduces it. -/
theorem jumpWithOffsetAddsV0AndWraps : Obligations.JumpWithOffsetAddsV0AndWraps := by
  intro nnn s
  refine ⟨_, rfl, ?_, jumpTo_jf .., jumpTo_changesPcOnly ..⟩
  have hwide : (s.wideV 0).toNat = (s.v 0).toNat := BitVec.toNat_setWidth_of_le (by decide)
  have hsum : (addrOperand nnn + s.wideV 0).toNat = nnn.toNat + (s.v 0).toNat := by
    rw [BitVec.toNat_add, addrOperand_toNat, hwide]
    omega
  rw [jumpTo_pc_toNat, hsum]

/-- Settles O23: the push goes to the entry `SP` names after it, and the target survives the reduction modulo 4096. -/
theorem callPushesItsOwnAddress : Obligations.CallPushesItsOwnAddress := by
  intro nnn s hsp
  have hne : s.sp.toNat ≠ 15 := fun e => hsp (BitVec.eq_of_toNat_eq e)
  have hup : (s.sp + 1).toNat = s.sp.toNat + 1 := by bv_omega
  have hpc : ((s.push s.pc).jumpTo (addrOperand nnn)).pc.toNat = nnn.toNat := by
    rw [jumpTo_pc_toNat, addrOperand_toNat]
    exact Nat.mod_eq_of_lt nnn.isLt
  exact ⟨_, exec_callNnn_below hsp, hup, stackAt_push_same s s.pc, fun k hk => stackAt_push_other s s.pc hk, hpc,
    jumpTo_jf .., rfl, fun _ => rfl⟩

/-- Settles O24: with `JF` at 0 the advance adds 2 to the popped address. -/
theorem returnGoesPastThePoppedCall : Obligations.ReturnGoesPastThePoppedCall := by
  intro s hsp
  have hdown : (s.sp - 1).toNat + 1 = s.sp.toNat := by bv_omega
  exact ⟨_, exec_ret_above hsp, wrapPc_toNat _, hdown, retire_jf .., rfl, fun _ => rfl⟩

/-- Settles O25: the `RET` pops the entry the `CALL` pushed, which holds the address of the `CALL`. -/
theorem callThenReturnComesBack : Obligations.CallThenReturnComesBack := by
  intro nnn s hsp
  have hup : s.sp + 1 ≠ 0 := fun e => hsp (by bv_omega)
  have htop : (s.push s.pc).stackAt (s.sp + 1) = s.pc := stackAt_push_same s s.pc
  refine ⟨_, _, exec_callNnn_below hsp, exec_ret_above hup, ?_, BitVec.add_sub_cancel .., rfl, fun _ => rfl⟩
  exact (wrapPc_toNat _).trans (congrArg (fun w : Word => (w.toNat + 2) % 4096) htop)

/-- Settles O26: each of the four is a skip on its predicate. -/
theorem registerSkipsPassOverOneInstruction : Obligations.RegisterSkipsPassOverOneInstruction := by
  intro x y kk s
  refine ⟨⟨_, rfl, ?_⟩, ⟨_, rfl, ?_⟩, ⟨_, rfl, ?_⟩, ⟨_, rfl, ?_⟩⟩
  · simpa using skipIf_spec s (s.v x = kk)
  · simpa using skipIf_spec s (s.v x ≠ kk)
  · simpa using skipIf_spec s (s.v x = s.v y)
  · simpa using skipIf_spec s (s.v x ≠ s.v y)

/-- Settles O27: `SKNP` is the skip on the negated key. -/
theorem keySkipsTestTheNamedKey : Obligations.KeySkipsTestTheNamedKey := by
  intro x k s hk
  have hkey := keyOf_eq_some.2 hk
  refine ⟨⟨_, exec_skpVx_key hkey, skipIf_spec s _⟩, ⟨_, exec_sknpVx_key hkey, ?_⟩⟩
  have hswap : (if !s.keyDown k then 4 else 2) = if s.keyDown k then 2 else 4 := by cases s.keyDown k <;> rfl
  rw [← hswap]
  exact skipIf_spec s _

/-- Settles O28: each guard holds, and its arm is `raise`. -/
theorem stackAndKeyFaultsAreLatchedPrecisely : Obligations.StackAndKeyFaultsAreLatchedPrecisely := by
  refine ⟨fun _ _ h => exec_callNnn_full h, fun _ h => exec_ret_empty h, fun x s h => ?_, rfl, rfl, fun _ => rfl⟩
  have hk : keyOf (s.v x) = none := keyOf_eq_none.2 h
  exact ⟨exec_skpVx_noKey hk, exec_sknpVx_noKey hk⟩

end Sys2Proof.Machine

/-! ## Register loads and the ALU, settled (42_alu.md) -/

namespace Sys2Proof.Machine

/-- Settles O29: each of the four writes `V[x]` and retires. -/
theorem plainLoadsWriteTheirRegisterOnly : Obligations.PlainLoadsWriteTheirRegisterOnly := by
  intro x y kk s
  have h : ∀ b, ((s.setV x b).retire false).v x = b := fun b => (v_retire ..).trans (v_setV_same s x b)
  exact ⟨⟨_, rfl, h _, setV_changesRegsOnly ..⟩, ⟨_, rfl, h _, setV_changesRegsOnly ..⟩,
    ⟨_, rfl, h _, setV_changesRegsOnly ..⟩, ⟨_, rfl, h _, setV_changesRegsOnly ..⟩⟩

/-- Settles O30: the carry of the byte addition is discarded. -/
theorem addImmediateWrapsAndKeepsTheFlag : Obligations.AddImmediateWrapsAndKeepsTheFlag := by
  intro x kk s
  refine ⟨_, rfl, ?_, setV_changesRegsOnly ..⟩
  rw [v_retire, v_setV_same, BitVec.toNat_add]

/-- Settles O31: by the order of R130 (a). -/
theorem orZeroesTheFlagFirst : Obligations.OrZeroesTheFlagFirst := fun x y s =>
  ⟨s.afterCombine x y (· ||| ·), rfl, v_afterCombine .., fun hx => flag_afterCombine s y _ hx,
    afterCombine_changesRegsOnly ..⟩

/-- Settles O32: for `x = 15` the result itself is 0, since the zeroed flag is an operand. -/
theorem andZeroesTheFlagFirst : Obligations.AndZeroesTheFlagFirst := by
  intro x y s
  refine ⟨decodeOfEncodeIsTheInstruction (.andVxVy x y) rfl, s.afterCombine x y (· &&& ·), rfl, v_afterCombine .., ?_,
    afterCombine_changesRegsOnly ..⟩
  by_cases hx : x = vF
  · subst hx
    refine (v_afterCombine ..).trans ?_
    rw [if_pos rfl]
    exact BitVec.zero_and
  · exact flag_afterCombine s y _ hx

/-- Settles O33: by the order of R130 (a). -/
theorem xorZeroesTheFlagFirst : Obligations.XorZeroesTheFlagFirst := fun x y s =>
  ⟨s.afterCombine x y (· ^^^ ·), rfl, v_afterCombine .., fun hx => flag_afterCombine s y _ hx,
    afterCombine_changesRegsOnly ..⟩

/-- What the statements on the flag-writing instructions ask of the state after one of them: the result
`r`, the flag `f`, both as numbers. -/
theorem resultThenFlag_spec (s : State) (x : Reg) {result flag : Byte} {r f : Nat}
    (hr : result.toNat = r) (hf : flag.toNat = f) :
    (x ≠ 15 → ((s.afterResultThenFlag x result flag).v x).toNat = r) ∧
    ((s.afterResultThenFlag x result flag).v 15).toNat = f ∧
    AtNextInstr s (s.afterResultThenFlag x result flag) ∧ (s.afterResultThenFlag x result flag).jf = false ∧
    ChangesRegsOnly s (s.afterResultThenFlag x result flag) (fun k => k = x ∨ k = 15) := by
  refine ⟨fun hx => ?_, ?_, afterResultThenFlag_changesRegsOnly ..⟩
  · rw [v_afterResultThenFlag s _ _ hx, hr]
  · rw [← hf]
    exact congrArg _ (flag_afterResultThenFlag ..)

theorem carryOut_toNat (a b : Byte) : (carryOut a b).toNat = if a.toNat + b.toNat > 255 then 1 else 0 := by
  simp [carryOut, flagByte_toNat]

theorem notBorrow_toNat (a b : Byte) : (notBorrow a b).toNat = if a.toNat ≥ b.toNat then 1 else 0 := by
  simp [notBorrow, flagByte_toNat]

theorem toNat_sub_byte (a b : Byte) : (a - b).toNat = (a.toNat + 256 - b.toNat) % 256 := by
  rw [BitVec.toNat_sub]
  omega

/-- Settles O34: by the order of R130 (b), with the carry-out as the flag. -/
theorem addSetsTheCarryLast : Obligations.AddSetsTheCarryLast := fun x _ s =>
  ⟨_, rfl, resultThenFlag_spec s x (BitVec.toNat_add ..) (carryOut_toNat ..)⟩

/-- Settles O35: by the order of R130 (b), with not-borrow as the flag. -/
theorem subtractionsSetNotBorrowLast : Obligations.SubtractionsSetNotBorrowLast := fun x _ s =>
  ⟨⟨_, rfl, resultThenFlag_spec s x (toNat_sub_byte ..) (notBorrow_toNat ..)⟩,
    ⟨_, rfl, resultThenFlag_spec s x (toNat_sub_byte ..) (notBorrow_toNat ..)⟩⟩

theorem toNat_shiftRight_one (b : Byte) :
    (b >>> 1).toNat = b.toNat / 2 ∧ (shiftedOutRight b).toNat = b.toNat % 2 := by
  revert b
  decide

theorem toNat_shiftLeft_one (b : Byte) :
    (b <<< 1).toNat = 2 * b.toNat % 256 ∧ (shiftedOutLeft b).toNat = b.toNat / 128 := by
  revert b
  decide

/-- Settles O36: the operand is the one the quirk selects, the flag its bit 0. -/
theorem shiftRightSetsTheBitShiftedOut : Obligations.ShiftRightSetsTheBitShiftedOut := by
  rintro x y s b rfl
  obtain ⟨hr, hf⟩ := toNat_shiftRight_one (s.shiftOperand x y)
  exact ⟨_, rfl, resultThenFlag_spec s x hr hf⟩

/-- Settles O37: the operand is the one the quirk selects, the flag its bit 7. -/
theorem shiftLeftSetsTheBitShiftedOut : Obligations.ShiftLeftSetsTheBitShiftedOut := by
  rintro x y s b rfl
  obtain ⟨hr, hf⟩ := toNat_shiftLeft_one (s.shiftOperand x y)
  exact ⟨_, rfl, resultThenFlag_spec s x hr hf⟩

end Sys2Proof.Machine

/-! ## Index register, memory, timers and display, settled (43_memory_index.md, 44_display.md) -/

namespace Sys2Proof.Machine

/-- Settles O38: only the sum with `V[x]` can exceed 16 bits, and nothing but `I` and the advance is updated. -/
theorem indexInstructionsSetOnlyTheIndex : Obligations.IndexInstructionsSetOnlyTheIndex := by
  refine ⟨fun nnn s => ?_, fun x s => ?_, fun x s => ?_⟩
  · exact ⟨_, rfl, addrOperand_toNat nnn, retire_atNextInstr rfl, retire_jf .., rfl, fun _ => rfl⟩
  · have hsum : (s.i + s.wideV x).toNat = (s.i.toNat + (s.v x).toNat) % 65536 := by
      rw [BitVec.toNat_add, State.wideV, BitVec.toNat_setWidth_of_le (by decide)]
    exact ⟨_, rfl, hsum, retire_atNextInstr rfl, retire_jf .., rfl, fun _ => rfl⟩
  · have hglyph : (BitVec.ofNat 16 (0 + 5 * (s.v x).toNat)).toNat = 5 * (s.v x).toNat := by
      rw [BitVec.toNat_ofNat]
      omega
    exact ⟨_, rfl, hglyph, retire_atNextInstr rfl, retire_jf .., rfl, fun _ => rfl⟩

/-- Settles O39: the three stored bytes are the digits, and none of them exceeds a byte. -/
theorem bcdStoresThreeDigits : Obligations.BcdStoresThreeDigits := by
  intro x s h
  have hdigit : ∀ k (hk : k < 3), ((s.afterBcd x).byteAt (s.i.toNat + k)).toNat =
      [(s.v x).toNat / 100, (s.v x).toNat / 10 % 10, (s.v x).toNat % 10][k]'hk := fun k hk => by
    rw [byteAt_afterBcd hk, bcdDigits_toNat]
  exact ⟨_, exec_ldBVx_inRange h, hdigit 0 (by decide), hdigit 1 (by decide), hdigit 2 (by decide),
    fun a ha => byteAt_afterBcd_outside ha, retire_atNextInstr rfl, retire_jf .., rfl⟩

/-- Settles O40: the block stored is `V[0]` to `V[x]` in order. -/
theorem dumpStoresRegistersThroughX : Obligations.DumpStoresRegistersThroughX := fun _ _ h =>
  ⟨_, exec_ldMemVx_inRange h, fun _ hk => byteAt_afterDump hk, fun _ ha => byteAt_afterDump_outside ha,
    toNat_indexPast h, retire_atNextInstr rfl, retire_jf .., rfl⟩

/-- Settles O41: in range by what the fill leaves, out of range by the check before it. -/
theorem loadFillsRegistersThroughX : Obligations.LoadFillsRegistersThroughX := by
  intro x s
  refine ⟨decodeOfEncodeIsTheInstruction (.ldVxMem x) rfl, fun h => ?_, fun h => ?_⟩
  · obtain ⟨r, e, hin, hout⟩ := exec_ldVxMem_inRange h
    exact ⟨_, e, hin, hout, toNat_indexPast h, retire_atNextInstr rfl, retire_jf .., rfl, fun _ => rfl⟩
  · exact withData_outOfRange (n := x.val + 1) h

/-- Settles O42: the range check raises before any of the three writes. -/
theorem dataAccessPastTheEndFaults : Obligations.DataAccessPastTheEndFaults := fun x _ n _ =>
  ⟨fun h => withData_outOfRange (n := 3) h, fun h => withData_outOfRange (n := x.val + 1) h,
    fun h _ => withData_outOfRange (n := n.toNat) h, fun _ => rfl⟩

/-- Settles O43: each of the two updates is one field and the advance. -/
theorem timerWritesSetOnlyTheirTimer : Obligations.TimerWritesSetOnlyTheirTimer := fun _ _ =>
  ⟨⟨_, rfl, rfl, retire_atNextInstr rfl, retire_jf .., rfl, fun _ => rfl⟩,
    ⟨_, rfl, rfl, retire_atNextInstr rfl, retire_jf .., rfl, fun _ => rfl⟩⟩

theorem fetch_inRange {u : State} (h : u.pc.toNat + 1 ≤ 4095) :
    u.fetch = .ok (wordOfBytes (u.byteAt u.pc.toNat) (u.byteAt (u.pc.toNat + 1))) :=
  if_neg (by change ¬ _ > 4095; omega)

/-- Settles O44: a later fetch reads the two bytes at its `PC` in the memory the store left, each of them
in the block or outside it. -/
theorem storeIsSeenByTheNextFetch : Obligations.StoreIsSeenByTheNextFetch := by
  intro x s
  refine ⟨fun h => ⟨_, exec_ldMemVx_inRange h, retire_atNextInstr rfl, fun u hu hpc => ?_⟩,
    fun h => ⟨_, exec_ldBVx_inRange h, retire_atNextInstr rfl, fun u hu hpc => ?_⟩⟩
  · have hmem : ∀ a, u.byteAt a = (s.afterDump x).byteAt a := fun a => by rw [byteAt_eq, hu, byteAt_eq]
    refine ⟨_, _, fetch_inRange hpc, fun k hk => ⟨fun e => ?_, fun e => ?_⟩, fun ha => ?_, fun ha => ?_⟩
    · rw [← e, hmem, byteAt_afterDump hk]
    · rw [← e, hmem, byteAt_afterDump hk]
    · rw [hmem, byteAt_afterDump_outside ha]
    · rw [hmem, byteAt_afterDump_outside ha]
  · have hmem : ∀ a, u.byteAt a = (s.afterBcd x).byteAt a := fun a => by rw [byteAt_eq, hu, byteAt_eq]
    have hdigit : ∀ a k (hk : k < 3), a = s.i.toNat + k → (u.byteAt a).toNat =
        [(s.v x).toNat / 100, (s.v x).toNat / 10 % 10, (s.v x).toNat % 10][k]'hk := fun a k hk e => by
      rw [hmem, e, byteAt_afterBcd hk, bcdDigits_toNat]
    refine ⟨_, _, fetch_inRange hpc, hdigit _ 0 (by decide), hdigit _ 1 (by decide), hdigit _ 2 (by decide),
      hdigit _ 0 (by decide), hdigit _ 1 (by decide), hdigit _ 2 (by decide), fun ha => ?_, fun ha => ?_⟩
    · rw [hmem, byteAt_afterBcd_outside ha]
    · rw [hmem, byteAt_afterBcd_outside ha]

/-- Settles O45: the new framebuffer does not depend on the old one. -/
theorem clearScreenClearsEveryPixel : Obligations.ClearScreenClearsEveryPixel := fun s =>
  ⟨_, rfl, fun row col => pixel_clearScreen s row col, rfl, retire_atNextInstr rfl, retire_jf .., rfl, fun _ => rfl⟩

/-- Settles O46: the draw is the flips of the sprite's pixels, all different. -/
theorem drawFlipsTheSpriteAndReportsCollision : Obligations.DrawFlipsTheSpriteAndReportsCollision := by
  intro x y n s _ hin
  have hflag := v_afterDraw s x y n vF
  refine ⟨_, exec_drwVxVyN_inRange hin, fun row col => ?_, ?_, fun k hk => ?_, by rw [afterDraw_eq],
    afterDraw_atNextInstr .., by rw [afterDraw_eq], by rw [afterDraw_eq], fun a => by rw [afterDraw_eq]; rfl⟩
  · rw [pixel_afterDraw, ← mem_sprite]
    by_cases hm : (row, col) ∈ s.sprite x y n.toNat <;> simp [hm]
  · by_cases hhit : ∃ p ∈ s.sprite x y n.toNat, s.pixel p.1 p.2 = true
    · refine .inl ⟨hflag.trans (if_pos ⟨hhit, rfl⟩), ?_⟩
      obtain ⟨⟨row, col⟩, hm, hset⟩ := hhit
      exact ⟨row, col, hset, mem_sprite.1 hm⟩
    · refine .inr ⟨hflag.trans ((if_neg fun e => hhit e.1).trans (v_setV_same ..)), fun row col hm => ?_⟩
      exact Bool.eq_false_iff.2 fun hset => hhit ⟨(row, col), mem_sprite.2 hm, hset⟩
  · exact (v_afterDraw s x y n k).trans ((if_neg fun e => hk e.2).trans (v_setV_other s _ hk))

/-- Settles O47: both draws flip the same pixels, since `I`, memory and the coordinates stay. -/
theorem drawingTwiceRestoresTheFramebuffer : Obligations.DrawingTwiceRestoresTheFramebuffer := by
  intro x y n s hx hy hn hin
  obtain ⟨t, ht, hpixel, -, hv, -, -, -, hframe, hmem⟩ := drawFlipsTheSpriteAndReportsCollision x y n s hn hin
  have hi : t.i = s.i := by rw [hframe]
  obtain ⟨u, hu, hpixel', hflag', -⟩ :=
    drawFlipsTheSpriteAndReportsCollision x y n t hn (by rw [hi]; exact hin)
  have hsame : ∀ row col, t.spriteSets (t.v x).toNat (t.v y).toNat n.toNat row col ↔
      s.spriteSets (s.v x).toNat (s.v y).toNat n.toNat row col := fun row col => by
    simp only [State.spriteSets, hv x hx, hv y hy, hi, hmem _]
  simp only [hsame] at hpixel' hflag'
  refine ⟨t, u, ht, hu, fun row col => ?_, ?_⟩
  · rw [Bool.eq_iff_iff, hpixel', hpixel]
    tauto
  · have hmeet : ∀ row col, s.spriteSets (s.v x).toNat (s.v y).toNat n.toNat row col →
        (t.pixel row col = true ↔ s.pixel row col = false) := fun row col hset => by
      rw [hpixel]
      simp [hset]
    rcases hflag' with ⟨h1, row, col, hp, hset⟩ | ⟨h0, hclear⟩
    · exact ⟨fun _ => ⟨row, col, hset, (hmeet row col hset).1 hp⟩, fun _ => h1⟩
    · refine ⟨fun h1 => absurd (h1.symm.trans h0) (by decide), fun ⟨row, col, hset, hp⟩ => ?_⟩
      exact absurd ((hmeet row col hset).2 hp) (by simp [hclear row col hset])

end Sys2Proof.Machine

/-! ## The extended draw and the key wait, settled (46_extended.md, 45_keyboard_timers_random.md) -/

namespace Sys2Proof.Machine

/-- Settles O49: the extended draw has the meaning of the nine extended opcodes. -/
theorem extendedDrawOnlyReports : Obligations.ExtendedDrawOnlyReports := by
  intro x y s
  obtain ⟨t, e, hreport, hpc, hjf, hframe, hmem⟩ := notImplemented_reportsAndGoesOn s (encode (.drwVxVy0 x y))
  refine ⟨decodeWord_encode_of_isExtended (i := .drwVxVy0 x y) rfl, t, e, hreport, hpc, hjf, ?_, ?_, ?_, ?_, hframe,
    hmem⟩
  · rw [hframe]
  · rw [hframe]
  · exact v_of_regs (by rw [hframe]) 15
  · rw [hframe]

/-- Settles O20: the update is `WAIT` and the advance. -/
theorem keyWaitEntersHalt : Obligations.KeyWaitEntersHalt := fun _ _ =>
  ⟨_, rfl, rfl, retire_atNextInstr rfl, retire_jf .., rfl, fun _ => rfl⟩

end Sys2Proof.Machine

/-! ## What an instruction can do, said once (10_state.md R39, 60_exceptions.md R204) -/

namespace Sys2Proof.Machine

/-! ### The columns of the access matrix that are no register -/

def jumps : Instr → Bool
  | .jpNnn _ | .callNnn _ | .jpV0Nnn _ => true
  | _ => false

def writesMemory : Instr → Bool
  | .ldBVx _ | .ldMemVx _ => true
  | _ => false

def writesStack : Instr → Bool
  | .callNnn _ => true
  | _ => false

def movesSp : Instr → Bool
  | .ret | .callNnn _ => true
  | _ => false

def writesIndex : Instr → Bool
  | .ldINnn _ | .addIVx _ | .ldFVx _ | .ldMemVx _ | .ldVxMem _ => true
  | _ => false

def writesDt : Instr → Bool
  | .ldDtVx _ => true
  | _ => false

def writesSt : Instr → Bool
  | .ldStVx _ => true
  | _ => false

def writesWait : Instr → Bool
  | .ldVxK _ => true
  | _ => false

theorem jumps_iff {i : Instr} : jumps i = true ↔ setsJumpFlag i := by
  cases i <;> simp [jumps, setsJumpFlag]

theorem writesMemory_iff {i : Instr} : writesMemory i = true ↔ ∃ x, i = .ldBVx x ∨ i = .ldMemVx x := by
  cases i <;> simp [writesMemory]

theorem writesStack_iff {i : Instr} : writesStack i = true ↔ ∃ nnn, i = .callNnn nnn := by
  cases i <;> simp [writesStack]

theorem movesSp_iff {i : Instr} : movesSp i = true ↔ i = .ret ∨ ∃ nnn, i = .callNnn nnn := by
  cases i <;> simp [movesSp]

theorem writesIndex_iff {i : Instr} : writesIndex i = true ↔
    (∃ nnn, i = .ldINnn nnn) ∨ ∃ x, i = .addIVx x ∨ i = .ldFVx x ∨ i = .ldMemVx x ∨ i = .ldVxMem x := by
  cases i <;> simp [writesIndex]

theorem writesDt_iff {i : Instr} : writesDt i = true ↔ ∃ x, i = .ldDtVx x := by cases i <;> simp [writesDt]

theorem writesSt_iff {i : Instr} : writesSt i = true ↔ ∃ x, i = .ldStVx x := by cases i <;> simp [writesSt]

theorem writesWait_iff {i : Instr} : writesWait i = true ↔ ∃ x, i = .ldVxK x := by cases i <;> simp [writesWait]

/-! ### A fault, or the named writes -/

/-- `i` raises `c` in `s` by a rule of its own (60_exceptions.md R201). -/
def Raises (i : Instr) (s : State) (c : FatalCause) : Prop :=
  (∃ nnn, i = .callNnn nnn ∧ c = .stackOverflow) ∨ (i = .ret ∧ c = .stackUnderflow) ∨
  (∃ x, (i = .skpVx x ∨ i = .sknpVx x) ∧ c = .keyIndexFault (s.v x)) ∨
  (∃ a, 4095 < a ∧ c = .addressFault .data a ∧
    ((∃ x, i = .ldBVx x ∨ i = .ldMemVx x ∨ i = .ldVxMem x) ∨ ∃ x y n, i = .drwVxVyN x y n))

theorem Raises.canFault {i : Instr} {s : State} {c : FatalCause} (h : Raises i s c) : canFault i := by
  rcases h with ⟨nnn, hi, -⟩ | ⟨hi, -⟩ | ⟨x, hi, -⟩ | ⟨a, -, -, ⟨x, hi⟩ | hi⟩
  · exact .inl ⟨nnn, hi⟩
  · exact .inr (.inl hi)
  · exact .inr (.inr (.inr ⟨x, hi.elim .inl (.inr ∘ .inl)⟩))
  · exact .inr (.inr (.inr ⟨x, .inr (.inr hi)⟩))
  · exact .inr (.inr (.inl hi))

/-- `t` differs from `s` only where `i` writes (R39), and holds what the advance and the report put there. -/
structure WritesNamed (i : Instr) (s t : State) : Prop where
  frame : t = { s with
    regs := t.regs, pc := t.pc, jf := jumps i, df := raisesDrawFlag i || s.df
    fb := if raisesDrawFlag i then t.fb else s.fb
    mem := if writesMemory i then t.mem else s.mem
    stack := if writesStack i then t.stack else s.stack
    sp := if movesSp i then t.sp else s.sp
    i := if writesIndex i then t.i else s.i
    dt := if writesDt i then t.dt else s.dt
    st := if writesSt i then t.st else s.st
    wait := if writesWait i then t.wait else s.wait
    report := if isExtended i then some (.notImplemented (encode i)) else s.report }
  regs : ∀ k, ¬ writesReg i k → t.v k = s.v k
  next : ¬ transfersControl i → AtNextInstr s t
  pcBound : t.pc.toNat < 4096

theorem retire_pc_lt (s : State) (j : Bool) : (s.retire j).pc.toNat < 4096 := by
  rw [retire_eq]
  exact (wrapPc_toNat _).trans_lt (Nat.mod_lt _ (by decide))

theorem skipIf_pc_lt (s : State) (c : Bool) : (s.skipIf c).pc.toNat < 4096 := retire_pc_lt _ _

/-- What `exec` can answer: `raise` with a cause of the instruction, or the named writes. It says of each
element what `FaultsOrCompletes` says of the draw flag only. -/
def RaisesOrWrites (i : Instr) (s : State) : Prop :=
  (∃ c, Raises i s c ∧ exec i s = .next (s.raise c)) ∨ ∃ t, exec i s = .next t ∧ WritesNamed i s t

/-- A data access (20_memory.md R53). -/
theorem raisesOrWrites_of_withData {i : Instr} {s go : State} {n : Nat} (he : exec i s = s.withData n go)
    (hi : (∃ x, i = .ldBVx x ∨ i = .ldMemVx x ∨ i = .ldVxMem x) ∨ ∃ x y n, i = .drwVxVyN x y n)
    (hgo : s.lastByte n ≤ 4095 → ∃ t, exec i s = .next t ∧ WritesNamed i s t) : RaisesOrWrites i s := by
  rcases withData_cases s n go with ⟨hin, -⟩ | ⟨hout, e⟩
  · exact .inr (hgo hin)
  · exact .inl ⟨_, .inr (.inr (.inr ⟨_, hout, rfl, hi⟩)), he.trans e⟩

/-- Everything an instruction can do, constructor by constructor. -/
theorem raisesOrWrites (i : Instr) (s : State) : RaisesOrWrites i s := by
  cases i with
  | ret =>
    by_cases h : s.sp = 0
    · exact .inl ⟨_, .inr (.inl ⟨rfl, rfl⟩), exec_ret_empty h⟩
    · exact .inr ⟨_, exec_ret_above h, rfl, fun _ _ => rfl, fun hc => absurd (.inr (.inl rfl)) hc, retire_pc_lt ..⟩
  | callNnn nnn =>
    by_cases h : s.sp = 15
    · exact .inl ⟨_, .inl ⟨nnn, rfl, rfl⟩, exec_callNnn_full h⟩
    · exact .inr ⟨_, exec_callNnn_below h, rfl, fun _ _ => rfl,
        fun hc => absurd (.inl ⟨nnn, .inr (.inl rfl)⟩) hc, retire_pc_lt ..⟩
  | jpNnn nnn =>
    exact .inr ⟨_, rfl, rfl, fun _ _ => rfl, fun hc => absurd (.inl ⟨nnn, .inl rfl⟩) hc, retire_pc_lt ..⟩
  | jpV0Nnn nnn =>
    exact .inr ⟨_, rfl, rfl, fun _ _ => rfl, fun hc => absurd (.inl ⟨nnn, .inr (.inr rfl)⟩) hc, retire_pc_lt ..⟩
  | skpVx x =>
    cases hk : keyOf (s.v x) with
    | none => exact .inl ⟨_, .inr (.inr (.inl ⟨x, .inl rfl, rfl⟩)), exec_skpVx_noKey hk⟩
    | some k =>
      exact .inr ⟨_, exec_skpVx_key hk, by rw [skipIf_eq]; rfl, fun _ _ => v_skipIf ..,
        fun hc => absurd (.inr (.inr (.inr (.inr ⟨x, .inl rfl⟩)))) hc, skipIf_pc_lt ..⟩
  | sknpVx x =>
    cases hk : keyOf (s.v x) with
    | none => exact .inl ⟨_, .inr (.inr (.inl ⟨x, .inr rfl, rfl⟩)), exec_sknpVx_noKey hk⟩
    | some k =>
      exact .inr ⟨_, exec_sknpVx_key hk, by rw [skipIf_eq]; rfl, fun _ _ => v_skipIf ..,
        fun hc => absurd (.inr (.inr (.inr (.inr ⟨x, .inr rfl⟩)))) hc, skipIf_pc_lt ..⟩
  | drwVxVyN x y n =>
    refine raisesOrWrites_of_withData rfl (.inr ⟨x, y, n, rfl⟩) fun hin => ⟨_, exec_drwVxVyN_inRange hin, ?_, ?_,
      fun _ => afterDraw_atNextInstr .., retire_pc_lt ..⟩
    · exact afterDraw_eq s x y n.toNat
    · intro k hk
      exact (v_afterDraw s x y n k).trans ((if_neg fun e => hk e.2).trans (v_setV_other s _ hk))
  | ldBVx x =>
    exact raisesOrWrites_of_withData rfl (.inl ⟨x, .inl rfl⟩) fun hin => ⟨_, exec_ldBVx_inRange hin, rfl,
      fun _ _ => rfl, fun _ => retire_atNextInstr rfl, retire_pc_lt ..⟩
  | ldMemVx x =>
    exact raisesOrWrites_of_withData rfl (.inl ⟨x, .inr (.inl rfl)⟩) fun hin => ⟨_, exec_ldMemVx_inRange hin, rfl,
      fun _ _ => rfl, fun _ => retire_atNextInstr rfl, retire_pc_lt ..⟩
  | ldVxMem x =>
    refine raisesOrWrites_of_withData rfl (.inl ⟨x, .inr (.inr rfl)⟩) fun hin => ?_
    obtain ⟨r, e, -, hout⟩ := exec_ldVxMem_inRange (x := x) hin
    exact ⟨_, e, rfl, fun k hk => hout k (not_le.1 hk), fun _ => retire_atNextInstr rfl, retire_pc_lt ..⟩
  | seVxKk x kk | sneVxKk x kk =>
    exact .inr ⟨_, rfl, by rw [skipIf_eq]; rfl, fun _ _ => v_skipIf ..,
      fun hc => absurd (.inr (.inr (.inl ⟨x, kk, by simp⟩))) hc, skipIf_pc_lt ..⟩
  | seVxVy x y | sneVxVy x y =>
    exact .inr ⟨_, rfl, by rw [skipIf_eq]; rfl, fun _ _ => v_skipIf ..,
      fun hc => absurd (.inr (.inr (.inr (.inl ⟨x, y, by simp⟩)))) hc, skipIf_pc_lt ..⟩
  | ldVxKk | addVxKk | ldVxVy | ldVxDt | rndVxKk =>
    exact .inr ⟨_, rfl, rfl, fun k hk => v_setV_other s _ hk, fun _ => retire_atNextInstr rfl, retire_pc_lt ..⟩
  | orVxVy x y | andVxVy x y | xorVxVy x y =>
    obtain ⟨hnext, -, -, hregs, -⟩ := afterCombine_changesRegsOnly s x y _
    exact .inr ⟨_, rfl, rfl, hregs, fun _ => hnext, retire_pc_lt ..⟩
  | addVxVy x | subVxVy x | shrVxVy x | subnVxVy x | shlVxVy x =>
    obtain ⟨hnext, -, -, hregs, -⟩ := afterResultThenFlag_changesRegsOnly s x _ _
    exact .inr ⟨_, rfl, rfl, hregs, fun _ => hnext, retire_pc_lt ..⟩
  | _ => exact .inr ⟨_, rfl, rfl, fun _ _ => rfl, fun _ => retire_atNextInstr rfl, retire_pc_lt ..⟩

theorem exec_eq_next {i : Instr} {s t : State} (h : exec i s = .next t) :
    (∃ c, Raises i s c ∧ t = s.raise c) ∨ WritesNamed i s t := by
  rcases raisesOrWrites i s with ⟨c, hc, e⟩ | ⟨u, e, hu⟩
  · exact .inl ⟨c, hc, Host.Outcome.next.inj (h.symm.trans e)⟩
  · obtain rfl := Host.Outcome.next.inj (h.symm.trans e)
    exact .inr hu

theorem WritesNamed.fault {i : Instr} {s t : State} (h : WritesNamed i s t) : t.fault = s.fault := by
  rw [h.frame]

/-- Settles O50: both answers an instruction has are next states. -/
theorem everyInstructionAnswersANextState : Obligations.EveryInstructionAnswersANextState := by
  intro i s
  rcases raisesOrWrites i s with ⟨c, -, e⟩ | ⟨t, e, -⟩
  · exact ⟨_, e⟩
  · exact ⟨t, e⟩

/-- Settles O51: an instruction that writes leaves `FAULT`, so one that latches a fault raised it. -/
theorem fatalFaultsArePrecise : Obligations.FatalFaultsArePrecise := by
  intro i s t f hrun h hf
  rcases exec_eq_next h with ⟨c, hc, rfl⟩ | hw
  · obtain rfl : FaultRecord.mk c s.pc = f := Option.some.inj hf
    exact ⟨rfl, rfl, hc⟩
  · rw [hw.fault, hrun] at hf
    cases hf

/-- An element that holds a new value only where a column of the matrix says so. -/
theorem named_of_changed {α : Type} {b : Bool} {new old : α} (h : new = if b then new else old)
    (hne : new ≠ old) : b = true := by
  cases b
  · exact absurd h hne
  · rfl

theorem or_of_changed {b new old : Bool} (h : new = (b || old)) (hne : new ≠ old) : b = true := by
  cases b
  · exact absurd h hne
  · rfl

/-- Settles O52: a fault changes `FAULT` alone, and an instruction that writes changes what it names. -/
theorem onlyTheNamedInstructionsWriteEachElement : Obligations.OnlyTheNamedInstructionsWriteEachElement := by
  intro i s t h
  rcases exec_eq_next h with ⟨c, hc, rfl⟩ | hw
  · exact ⟨(absurd rfl ·), (absurd rfl ·), (absurd rfl ·), (absurd rfl ·), (absurd rfl ·), (absurd rfl ·),
      (absurd rfl ·), (absurd rfl ·), (absurd rfl ·), fun _ => (absurd rfl ·), (absurd rfl ·),
      fun _ => hc.canFault, fun _ hr => (nomatch hr), fun _ _ => ⟨rfl, rfl⟩, rfl, rfl, rfl, rfl, rfl, rfl, rfl, rfl, rfl⟩
  · have e := hw.frame
    refine ⟨fun hne => raisesDrawFlag_iff.1 (named_of_changed (congrArg State.fb e) hne),
      fun hne => raisesDrawFlag_iff.1 (or_of_changed (congrArg State.df e) hne),
      fun hne => writesMemory_iff.1 (named_of_changed (congrArg State.mem e) hne),
      fun hne => writesStack_iff.1 (named_of_changed (congrArg State.stack e) hne),
      fun hne => movesSp_iff.1 (named_of_changed (congrArg State.sp e) hne),
      fun hne => writesIndex_iff.1 (named_of_changed (congrArg State.i e) hne),
      fun hne => writesDt_iff.1 (named_of_changed (congrArg State.dt e) hne),
      fun hne => writesSt_iff.1 (named_of_changed (congrArg State.st e) hne),
      fun hne => writesWait_iff.1 (named_of_changed (congrArg State.wait e) hne),
      fun k hne => by_contra fun hk => hne (hw.regs k hk), fun hne => ?_,
      fun hne => absurd hw.fault hne, fun _ _ => ⟨?_, hw.next⟩, fun hs ht => absurd (hw.fault.trans hs) ht, ?_⟩
    · by_contra hext
      exact hne ((congrArg State.report e).trans (if_neg hext))
    · rw [← jumps_iff, congrArg State.jf e]
    · rw [e]
      exact ⟨rfl, rfl, rfl, rfl, rfl, rfl, rfl, rfl, rfl⟩

end Sys2Proof.Machine

/-! ## What an instruction does not read (40_instruction_cycle.md R94) -/

namespace Sys2Proof.Machine

/-- `s` with other settings, another pending move and another `load_report`. -/
def State.amid (s : State) (g : Settings → Settings) (m : HostMove → HostMove)
    (l : Option LoadReport → Option LoadReport) : State :=
  { s with settings := g s.settings, pending := m s.pending, loadReport := l s.loadReport }

section

variable (g : Settings → Settings) (m : HostMove → HostMove) (l : Option LoadReport → Option LoadReport)

/-- The surroundings come to an answer through what it answers. -/
def amidNext (r : Result) : Result := andThen r fun t => .next (t.amid g m l)

theorem withData_amid (s go : State) (n : Nat) :
    (s.amid g m l).withData n (go.amid g m l) = amidNext g m l (s.withData n go) := by
  rcases withData_cases s n go with ⟨hin, e⟩ | ⟨hout, e⟩
  · rw [e]
    exact withData_inRange hin
  · rw [e]
    exact withData_outOfRange hout

theorem skipIf_amid (s : State) (c : Bool) : (s.amid g m l).skipIf c = (s.skipIf c).amid g m l := by
  rw [skipIf_eq, skipIf_eq]
  rfl

theorem flipPixel_amid (s : State) (row : Fin 32) (col : Fin 64) :
    (s.amid g m l).flipPixel row col = (s.flipPixel row col).amid g m l := by
  change (if s.pixel row col = true then (s.setV vF 1).amid g m l else s.amid g m l).setPixel row col
      (!s.pixel row col) =
    ((if s.pixel row col = true then s.setV vF 1 else s).setPixel row col (!s.pixel row col)).amid g m l
  cases s.pixel row col <;> rfl

theorem flipAll_amid (p : List (Fin 32 × Fin 64)) : ∀ s : State,
    (s.amid g m l).flipAll p = (s.flipAll p).amid g m l := by
  induction p with
  | nil => exact fun _ => rfl
  | cons q p ih =>
    intro s
    change ((s.amid g m l).flipPixel q.1 q.2).flipAll p = ((s.flipPixel q.1 q.2).flipAll p).amid g m l
    rw [flipPixel_amid, ih]

theorem afterDraw_amid (s : State) (x y : Reg) (n : Nat) :
    (s.amid g m l).afterDraw x y n = (s.afterDraw x y n).amid g m l := by
  change ({ ((s.setV vF 0).amid g m l).flipAll (s.sprite x y n) with df := true }).retire false = _
  rw [flipAll_amid]
  rfl

theorem shiftOperand_amid {s : State} (h : (g s.settings).shiftQuirk = s.settings.shiftQuirk) (x y : Reg) :
    (s.amid g m l).shiftOperand x y = s.shiftOperand x y := by
  change (if (g s.settings).shiftQuirk then s.v x else s.v y) = _
  rw [h]
  rfl

/-- An instruction commutes with its surroundings, but for the quirk of a shift and the random byte. -/
theorem exec_amid (i : Instr) (s : State)
    (hg : (∀ x y, i ≠ .shrVxVy x y ∧ i ≠ .shlVxVy x y) ∨ (g s.settings).shiftQuirk = s.settings.shiftQuirk)
    (hm : (∀ x kk, i ≠ .rndVxKk x kk) ∨ (m s.pending).inputs.rnd = s.pending.inputs.rnd) :
    exec i (s.amid g m l) = amidNext g m l (exec i s) := by
  cases i with
  | ret =>
    by_cases h : s.sp = 0
    · rw [exec_ret_empty h]
      exact exec_ret_empty h
    · rw [exec_ret_above h]
      exact exec_ret_above h
  | callNnn nnn =>
    by_cases h : s.sp = 15
    · rw [exec_callNnn_full h]
      exact exec_callNnn_full h
    · rw [exec_callNnn_below h]
      exact exec_callNnn_below h
  | skpVx x =>
    cases hk : keyOf (s.v x) with
    | none =>
      rw [exec_skpVx_noKey hk]
      exact exec_skpVx_noKey hk
    | some k =>
      rw [exec_skpVx_key hk]
      exact (exec_skpVx_key (s := s.amid g m l) hk).trans (congrArg _ (skipIf_amid g m l s _))
  | sknpVx x =>
    cases hk : keyOf (s.v x) with
    | none =>
      rw [exec_sknpVx_noKey hk]
      exact exec_sknpVx_noKey hk
    | some k =>
      rw [exec_sknpVx_key hk]
      exact (exec_sknpVx_key (s := s.amid g m l) hk).trans (congrArg _ (skipIf_amid g m l s _))
  | drwVxVyN x y n =>
    have hgo : ∀ u : State, exec (.drwVxVyN x y n) u = u.withData n.toNat (u.afterDraw x y n.toNat) := fun u => by
      rw [exec, execDrwVxVyN, blit_eq]
      rfl
    rw [hgo, hgo, afterDraw_amid, withData_amid]
  | ldBVx x => exact withData_amid g m l s (s.afterBcd x) 3
  | ldMemVx x =>
    have hfold := List.foldl_hom (l := regsThrough x) (init := s) (g₁ := State.dumpOne) (g₂ := State.dumpOne)
      (fun t => t.amid g m l) fun _ _ => rfl
    change State.withData _ _ (State.retire (List.foldl State.dumpOne (s.amid g m l) _) _) = _
    rw [hfold]
    exact withData_amid g m l s (((regsThrough x).foldl State.dumpOne s).retire false) _
  | ldVxMem x =>
    have hfold := List.foldl_hom (l := regsThrough x) (init := s) (g₁ := State.fillOne) (g₂ := State.fillOne)
      (fun t => t.amid g m l) fun _ _ => rfl
    change State.withData _ _ (State.retire (List.foldl State.fillOne (s.amid g m l) _) _) = _
    rw [hfold]
    exact withData_amid g m l s (((regsThrough x).foldl State.fillOne s).retire false) _
  | seVxKk | sneVxKk | seVxVy | sneVxVy => exact congrArg _ (skipIf_amid g m l s _)
  | shrVxVy x y =>
    have hq := hg.resolve_left fun h => (h x y).1 rfl
    rw [exec, execShrVxVy, shiftOperand_amid g m l hq]
    rfl
  | shlVxVy x y =>
    have hq := hg.resolve_left fun h => (h x y).2 rfl
    rw [exec, execShlVxVy, shiftOperand_amid g m l hq]
    rfl
  | rndVxKk x kk =>
    have hrnd := hm.resolve_left fun h => h x kk rfl
    exact congrArg (fun b => Host.Outcome.next (((s.amid g m l).setV x (b &&& kk)).retire false)) hrnd
  | _ => rfl

end

/-- Settles O53: the surroundings are those of the statement, with `load_report` as it is. -/
theorem instructionsReadNoOtherInput : Obligations.InstructionsReadNoOtherInput := fun i s g m hg hm =>
  exec_amid (fun _ => g) (fun _ => m) id i s hg hm

end Sys2Proof.Machine

/-! ## Ticks and moves: one equation for each way they go (40_instruction_cycle.md R90) -/

namespace Sys2Proof.Machine

/-! ### Fetch -/

theorem fetch_outOfRange {s : State} (h : 4095 < s.pc.toNat + 1) :
    s.fetch = .error (.addressFault .fetch (s.pc.toNat + 1)) := if_pos h

theorem wordOfBytes_toNat (hi lo : Byte) : (wordOfBytes hi lo).toNat = 256 * hi.toNat + lo.toNat := by
  have h : (wordOfBytes hi lo).toNat = hi.toNat <<< 8 ||| lo.toNat := BitVec.toNat_append hi lo
  rw [h, ← Nat.shiftLeft_add_eq_or_of_lt lo.isLt, Nat.shiftLeft_eq, Nat.mul_comm]

/-- Settles O5: the concatenation of two bytes as a number, and the guard of the fetch. -/
theorem fetchIsBigEndianOrFaults : Obligations.FetchIsBigEndianOrFaults := fun _ =>
  ⟨fun h => ⟨_, fetch_inRange h, wordOfBytes_toNat ..⟩, fun h => fetch_outOfRange h⟩

/-! ### The state an instruction executes in -/

/-- Step 1 and the clearing of `JF`, as one update. -/
theorem atExecute_eq (s : State) : s.atExecute =
    { s with keys := s.sampleKeys.keys, report := none, present := false, loadOpen := false, jf := false } := by
  rw [State.atExecute, beginTick_eq]

theorem keyDown_atExecute (s : State) (k : Fin 16) : s.atExecute.keyDown k =
    if s.pending.inputs.keysValid then s.pending.inputs.keys.getLsbD k.val else s.keyDown k :=
  keyDown_beginTick s k

theorem executeOne_of_fetchError {u : State} {c : FatalCause} (h : State.fetch { u with jf := false } = .error c) :
    executeOne u = .next (State.raise { u with jf := false } c) := by
  simp [executeOne, h]

theorem executeOne_of_decodeError {u : State} {w : Word} (h : State.fetch { u with jf := false } = .ok w)
    (hd : decodeWord w = .error (.decodeFailure w)) :
    executeOne u = .next (State.raise { u with jf := false } (.decodeFailure w)) := by
  simp [executeOne, h, hd]

theorem executeOne_of_decode {u : State} {w : Word} {i : Instr} (h : State.fetch { u with jf := false } = .ok w)
    (hd : decodeWord w = .ok i) : executeOne u = exec i { u with jf := false } := by
  simp [executeOne, h, hd]

/-- Step 2 of a tick whose word decodes. -/
theorem executeOne_beginTick {s : State} {w : Word} {i : Instr} (h : s.atExecute.fetch = .ok w)
    (hd : decodeWord w = .ok i) : executeOne s.beginTick = exec i s.atExecute := executeOne_of_decode h hd

/-! ### A move that is a tick -/

theorem step_of_tick {s : State} (h : s.pending.cmd = .tick) :
    step s = andThen (tick s) fun t => .next t.takeNextMove := by
  rw [step, runMove, hostOperation, h]

/-- The execute gate (R92), as the statements write it. -/
abbrev State.gate (s : State) : Prop := s.wait = .resume ∧ s.pending.inputs.execDue = true

theorem not_gate_iff {s : State} : ¬ s.gate ↔ s.wait ≠ .resume ∨ s.pending.inputs.execDue = false := by
  rw [not_and_or, Bool.not_eq_true]

theorem step_open {s : State} (hs : s.ticking) (hg : s.gate) :
    step s = andThen (andThen (executeOne s.beginTick) finishTick) fun t => .next t.takeNextMove := by
  obtain ⟨hcmd, hreset, hfault⟩ := hs
  have hopen : s.beginTick.gateOpen = true := gateOpen_beginTick.2 hg
  rw [step_of_tick hcmd]
  simp [tick, hreset, hfault, hopen]

theorem step_closed {s : State} (hs : s.ticking) (hg : ¬ s.gate) :
    step s = andThen s.beginTick.afterExecute fun t => .next t.takeNextMove := by
  obtain ⟨hcmd, hreset, hfault⟩ := hs
  have hclosed : ¬ s.beginTick.gateOpen = true := fun h => hg (gateOpen_beginTick.1 h)
  rw [step_of_tick hcmd]
  simp [tick, hreset, hfault, hclosed]

/-- A fault raised in step 2 ends the tick (R101). -/
theorem step_open_of_raise {s : State} {c : FatalCause} (hs : s.ticking) (hg : s.gate)
    (h : executeOne s.beginTick = .next (s.atExecute.raise c)) :
    step s = .next (latched s.atExecute c).takeNextMove := by
  rw [step_open hs hg, h]
  rfl

/-- Settles O6: the gate is open, so step 2 is `exec` of the decoded instruction. -/
theorem stepExecutesTheDecodedInstruction : Obligations.StepExecutesTheDecodedInstruction :=
  fun s w i hs hw hd hf hi => by rw [step_open hs ⟨hw, hd⟩, executeOne_beginTick hf hi]

/-- Settles O7: step 2 raises, and a latched fault ends the tick. -/
theorem decodeFailureIsLatchedAndNotSkipped : Obligations.DecodeFailureIsLatchedAndNotSkipped := by
  intro s w hs hw hd hf he
  have hpc : s.atExecute.pc = s.pc := by rw [atExecute_eq]
  refine ⟨step_open_of_raise hs ⟨hw, hd⟩ (executeOne_of_decodeError (u := s.beginTick) hf he), hpc, ?_, rfl⟩
  rw [latched, hpc]

/-- Settles O8: `PC + 1` is out of range, so step 2 raises the fault of the fetch. -/
theorem fetchAtLastByteIsLatched : Obligations.FetchAtLastByteIsLatched := by
  intro s hs hw hd hpc
  have hf : s.atExecute.fetch = .error (.addressFault .fetch 0x1000) := by
    have hpc' : s.atExecute.pc.toNat = 0xFFF := by rw [atExecute_eq, hpc]; rfl
    rw [fetch_outOfRange (by omega), hpc']
  exact ⟨step_open_of_raise hs ⟨hw, hd⟩ (executeOne_of_fetchError (u := s.beginTick) hf), rfl⟩

/-- Settles O10: the second guard of the tick. -/
theorem latchedFaultFreezesTheBlock : Obligations.LatchedFaultFreezesTheBlock := by
  intro s f hcmd hreset hf
  rw [step_of_tick hcmd]
  simp [tick, hreset, hf, andThen]

/-! ### Reset and load -/

/-- The moves that reset the block (R96, 70_reset_and_hazards.md R230). -/
abbrev State.resets (s : State) : Prop :=
  s.pending.cmd = .reset ∨ (s.pending.cmd = .tick ∧ s.pending.inputs.resetReq = true)

theorem step_of_resets {s : State} (h : s.resets) : step s = .next s.doReset.takeNextMove := by
  rcases h with h | ⟨h, hreq⟩
  · rw [step, runMove, hostOperation, h]
    rfl
  · rw [step_of_tick h, tick, if_pos hreq]
    rfl

/-- Settles O11: both moves answer `doReset`, whose settings are those of the move if it has some. -/
theorem resetRequestGivesTheResetState : Obligations.ResetRequestGivesTheResetState := by
  refine fun s h => ⟨_, step_of_resets h, ?_⟩
  unfold State.doReset
  cases s.pending.settings <;> rfl

theorem resetByte_above_font {a : Nat} (h : 80 ≤ a) : Memory.resetByte a = 0 := by
  have hlen : Config.font.length = 80 := rfl
  unfold Memory.resetByte Config.fontBase
  rw [if_pos (Nat.zero_le a), List.getD_eq_default _ _ (by omega)]

/-- Settles O12: the elements by the literal, memory by the table of the font and its length. -/
theorem resetValuesOfEveryElement : Obligations.ResetValuesOfEveryElement := by
  intro g m ms n
  have hget : ∀ {α : Type} (k n : Nat) (b : α) (hk : k < n), (Vector.replicate n b)[k] = b := by simp
  refine ⟨fun k => hget _ _ _ k.isLt, rfl, rfl, rfl, fun k => hget _ _ _ k.isLt, rfl, rfl, fun row col => ?_,
    fun k => hget _ _ _ k.isLt, rfl, rfl, rfl, rfl, rfl, rfl, rfl, rfl, fun a ha => resetByte_above_font ha,
    ?_, ?_, ?_, ?_⟩
  · simp [State.pixel, State.resetWith, Vector.get_eq_getElem]
  all_goals rfl

theorem step_of_load {s : State} {bytes : List Byte} (h : s.pending.cmd = .load bytes) (ho : s.loadOpen = true) :
    step s = .next (s.doLoad bytes).takeNextMove := by
  rw [step, runMove, hostOperation, h]
  simp [ho, andThen]

theorem step_of_refusedLoad {s : State} {bytes : List Byte} (h : s.pending.cmd = .load bytes)
    (ho : s.loadOpen = false) : step s = .refused .loadOutsideWindow := by
  rw [step, runMove, hostOperation, h]
  simp [ho, andThen]

theorem byteAt_doLoad (s : State) (bytes : List Byte) (a : Nat) : (s.doLoad bytes).byteAt a =
    if 0x200 ≤ a then ((bytes.take 3584)[a - 0x200]?).getD (s.byteAt a) else s.byteAt a :=
  Memory.read_writeBytes ..

/-- Settles O13: the bytes by the store of the first 3584, the frame by the update. -/
theorem loadStoresTheProgramAndReportsTruncation : Obligations.LoadStoresTheProgramAndReportsTruncation := by
  intro s bytes hcmd hopen
  refine ⟨_, step_of_load hcmd hopen, fun k hk b hb => ?_, fun a ha => ?_, rfl, rfl, rfl⟩
  · rw [byteAt_doLoad, if_pos (by omega), Nat.add_sub_cancel_left, List.getElem?_take_of_lt hk, hb]
    rfl
  · rw [byteAt_doLoad]
    split
    · rw [List.getElem?_eq_none (by rw [List.length_take]; omega)]
      rfl
    · rfl

/-! ### Everything a move can do, by its four ways -/

/-- A move that answers a next state resets, or is a tick frozen by a fault, or a load, or a tick with its
six steps. -/
theorem step_ways {s t : State} (h : step s = .next t) :
    (s.resets ∧ t = s.doReset.takeNextMove) ∨
    ((∃ f, s.fault = some f) ∧ t = s.takeNextMove) ∨
    (∃ bytes, s.pending.cmd = .load bytes ∧ s.loadOpen = true ∧ t = (s.doLoad bytes).takeNextMove) ∨
    s.ticking := by
  rcases step_cases h with ⟨hcmd, u, hu, rfl⟩ | ⟨hcmd, rfl⟩ | hload
  · rcases tick_cases s with ⟨hreq, e⟩ | ⟨-, hf, e⟩ | ⟨hreq, hf, -⟩ | ⟨hreq, hf, -⟩
    · exact .inl ⟨.inr ⟨hcmd, hreq⟩, congrArg _ (Host.Outcome.next.inj (hu.symm.trans e))⟩
    · exact .inr (.inl ⟨Option.isSome_iff_exists.1 hf, congrArg _ (Host.Outcome.next.inj (hu.symm.trans e))⟩)
    · exact .inr (.inr (.inr ⟨hcmd, hreq, hf⟩))
    · exact .inr (.inr (.inr ⟨hcmd, hreq, hf⟩))
  · exact .inl ⟨.inl hcmd, rfl⟩
  · exact .inr (.inr (.inl hload))

/-- A tick with its six steps, with what its instruction wrote. -/
theorem ticking_ways {s t : State} (hs : s.ticking) (h : step s = .next t) :
    (¬ s.gate ∧ ∃ u, s.beginTick.afterExecute = .next u ∧ t = u.takeNextMove) ∨
    (s.gate ∧ ∃ c, t = (s.atExecute.raise c).takeNextMove) ∨
    (s.gate ∧ ∃ w i v u, s.atExecute.fetch = .ok w ∧ decodeWord w = .ok i ∧ exec i s.atExecute = .next v ∧
      WritesNamed i s.atExecute v ∧ v.afterExecute = .next u ∧ t = u.takeNextMove) := by
  rcases ticking_step_cases hs h with hclosed | hraise | ⟨hg, w, i, -, -, hw, hi, -⟩
  · exact .inl hclosed
  · exact .inr (.inl hraise)
  · have he := executeOne_beginTick hw hi
    rcases raisesOrWrites i s.atExecute with ⟨c, -, e⟩ | ⟨v, e, hv⟩
    · have e' := step_open_of_raise hs hg (he.trans e)
      exact .inr (.inl ⟨hg, c, Host.Outcome.next.inj (h.symm.trans e')⟩)
    · have hf : v.fault = none := by rw [hv.fault, atExecute_eq]; exact hs.2.2
      rw [step_open hs hg, he, e] at h
      obtain ⟨u, hu, ht⟩ := andThen_eq_next h
      refine .inr (.inr ⟨hg, w, i, v, u, hw, hi, e, hv, ?_, (Host.Outcome.next.inj ht).symm⟩)
      rcases finishTick_cases v with ⟨hsome, -⟩ | ⟨-, e'⟩
      · simp [hf] at hsome
      · exact e'.symm.trans hu

/-- Settles O14: the guard of a load, and step 1 of a tick, which every later step leaves alone. -/
theorem loadOutsideItsWindowIsRefused : Obligations.LoadOutsideItsWindowIsRefused := by
  refine ⟨fun s bytes => step_of_refusedLoad, fun s t bytes hcmd h => ?_, fun s t hs h => ?_⟩
  · rcases step_cases h with ⟨hc, -⟩ | ⟨hc, -⟩ | ⟨_, -, -, rfl⟩
    · cases hcmd.symm.trans hc
    · cases hcmd.symm.trans hc
    · exact takeNextMove_loadOpen _
  · have hat : s.atExecute.loadOpen = false := by rw [atExecute_eq]
    rcases ticking_ways hs h with ⟨-, u, hu, rfl⟩ | ⟨-, c, rfl⟩ | ⟨-, w, i, v, u, -, -, -, hv, hu, rfl⟩
    · rw [takeNextMove_loadOpen, afterExecute_eq hu]
      exact hat
    · rw [takeNextMove_loadOpen]
      exact hat
    · rw [takeNextMove_loadOpen, afterExecute_eq hu, hv.frame]
      exact hat

/-- Settles O55: only a reset writes the settings, and it writes those that came with the move. -/
theorem configurationChangesOnlyWithAReset : Obligations.ConfigurationChangesOnlyWithAReset := by
  intro s t h hne
  have hat : s.atExecute.settings = s.settings := by rw [atExecute_eq]
  rcases step_ways h with ⟨hreset, rfl⟩ | ⟨-, rfl⟩ | ⟨bytes, -, -, rfl⟩ | hs
  · rw [takeNextMove_settings] at hne ⊢
    refine ⟨hreset, ?_⟩
    change (s.pending.settings.getD s.settings) ≠ s.settings at hne
    change s.pending.settings = some (s.pending.settings.getD s.settings)
    cases hg : s.pending.settings with
    | none => exact absurd (by rw [hg]; rfl) hne
    | some g => rfl
  · exact absurd (takeNextMove_settings s) hne
  · exact absurd (takeNextMove_settings _) hne
  · refine absurd ?_ hne
    rcases ticking_ways hs h with ⟨-, u, hu, rfl⟩ | ⟨-, c, rfl⟩ | ⟨-, w, i, v, u, -, -, -, hv, hu, rfl⟩
    · rw [takeNextMove_settings, afterExecute_eq hu]
      exact hat
    · rw [takeNextMove_settings]
      exact hat
    · rw [takeNextMove_settings, afterExecute_eq hu, hv.frame]
      exact hat

/-! ### The placed word -/

theorem byteAt_storeWord (s : State) (w : Word) {k : Nat} (hk : k < 2) :
    (s.storeWord w).byteAt (s.pc.toNat + k) = (bytesOfWord w)[k]'hk := by
  rw [byteAt_eq, storeWord_mem, Memory.read_writeBytes, if_pos (by omega), Nat.add_sub_cancel_left,
    List.getElem?_eq_getElem hk]
  rfl

theorem readyToExecute_pc (s : State) : s.readyToExecute.pc.toNat + 1 ≤ 4095 := by
  change (if s.pc.toNat + 1 > 4095 then 0x200 else s.pc : Word).toNat + 1 ≤ 4095
  split
  · decide
  · omega

/-- Settles O59: the two bytes stored at `PC` are the two the fetch reads. -/
theorem placedWordIsFetchedNext : Obligations.PlacedWordIsFetchedNext := by
  intro s nbits w
  refine ⟨⟨rfl, rfl, rfl⟩, gateOpen_beginTick.2 ⟨rfl, rfl⟩, ?_⟩
  have hfetch : (s.withFetchWord nbits w).fetch = .ok (tableWord nbits w) := by
    refine (fetch_inRange (u := s.withFetchWord nbits w) (readyToExecute_pc s)).trans ?_
    exact congrArg Except.ok ((congrArg₂ wordOfBytes (byteAt_storeWord s.readyToExecute _ (k := 0) (by decide))
      (byteAt_storeWord s.readyToExecute _ (k := 1) (by decide))).trans (wordOfBytes_bytesOfWord _))
  rw [atExecute_eq]
  exact hfetch

end Sys2Proof.Machine

/-! ## The wait step and a tick whose gate is closed (40_instruction_cycle.md R92, R97 to R100) -/

namespace Sys2Proof.Machine

/-! ### The wait step, one equation for each way it goes -/

theorem waitStep_resume {s : State} (hw : s.wait = .resume) : s.waitStep = .next s := by
  rw [State.waitStep, hw]

theorem waitStep_halt_none {s : State} {r : Reg} (hw : s.wait = .halt r) (hk : s.lowestKey = none) :
    s.waitStep = .next s := by
  simp [State.waitStep, hw, hk]

/-- Key `k` written into `V[r]`, and on to its release (45_keyboard_timers_random.md R171). -/
def State.latchKey (s : State) (r : Reg) (k : Fin 16) : State :=
  { s.setV r (BitVec.ofNat 8 k.val) with wait := .waitForRelease r }

theorem v_latchKey_toNat (s : State) (r : Reg) (k : Fin 16) : ((s.latchKey r k).v r).toNat = k.val :=
  (congrArg _ (v_setV_same ..)).trans (Nat.mod_eq_of_lt (by omega))

theorem waitStep_halt_some {s : State} {r : Reg} {k : Fin 16} (hw : s.wait = .halt r) (hk : s.lowestKey = some k) :
    s.waitStep = .next (s.latchKey r k) := by
  simp [State.waitStep, hw, hk, State.latchKey]

theorem waitStep_release {s : State} {r : Reg} {k : Fin 16} (hw : s.wait = .waitForRelease r)
    (hk : (s.v r).toNat = k.val) :
    s.waitStep = .next { s with wait := if s.keyDown k then .waitForRelease r else .resume } := by
  have hkey := keyOf_eq_some.2 hk
  cases hd : s.keyDown k
  · simp [State.waitStep, hw, hkey, hd]
  · have hsame : ({ s with wait := .waitForRelease r } : State) = s := by rw [← hw]
    simp [State.waitStep, hw, hkey, hd, hsame]

/-- Only `Halt(r)` writes a register, and only `V[r]`. -/
theorem waitStep_v {s t : State} (h : s.waitStep = .next t) {k : Reg} (hk : s.wait ≠ .halt k) : t.v k = s.v k := by
  rcases waitStep_cases s with ⟨-, e⟩ | ⟨_, -, -, e⟩ | ⟨r, _, hw, -, e⟩ | ⟨_, _, -, -, -, e⟩ |
    ⟨_, _, -, -, -, e⟩ | ⟨_, -, -, e⟩ <;> cases h.symm.trans e
  · rfl
  · rfl
  · exact v_setV_other s _ fun e => hk (e ▸ hw)
  · rfl
  · rfl

theorem waitStep_regs {s t : State} (h : s.waitStep = .next t) (hw : ∀ r, s.wait ≠ .halt r) : t.regs = s.regs := by
  rcases waitStep_cases s with ⟨-, e⟩ | ⟨_, -, -, e⟩ | ⟨r, _, hr, -, -⟩ | ⟨_, _, -, -, -, e⟩ |
    ⟨_, _, -, -, -, e⟩ | ⟨_, -, -, e⟩
  · cases h.symm.trans e
    rfl
  · cases h.symm.trans e
    rfl
  · exact absurd hr (hw r)
  · cases h.symm.trans e
    rfl
  · cases h.symm.trans e
    rfl
  · cases h.symm.trans e

/-! ### Steps 4 to 6 -/

theorem timerStep_dt (s : State) :
    s.timerStep.dt = if s.pending.inputs.timerDue = true ∧ s.dt ≠ 0 then s.dt - 1 else s.dt := by
  unfold State.timerStep countDown
  split <;> split <;> simp_all

theorem timerStep_due {s : State} (h : s.pending.inputs.timerDue = true) :
    s.timerStep = { s with dt := countDown s.dt, st := countDown s.st } := if_pos h

theorem timerStep_notDue {s : State} (h : s.pending.inputs.timerDue = false) : s.timerStep = s :=
  if_neg (by simp [h])

theorem afterExecute_of_waitStep {s u : State} (h : s.waitStep = .next u) : s.afterExecute = .next u.endTick := by
  rw [State.afterExecute, h]
  rfl

@[simp] theorem endTick_keys (s : State) : s.endTick.keys = s.keys := by rw [endTick_eq]
@[simp] theorem endTick_regs (s : State) : s.endTick.regs = s.regs := by rw [endTick_eq]
@[simp] theorem endTick_wait (s : State) : s.endTick.wait = s.wait := by rw [endTick_eq]

theorem iterate_timerStep {s : State} (h : s.pending.inputs.timerDue = true) (n : Nat) :
    (State.timerStep^[n] s).pending = s.pending ∧
    (State.timerStep^[n] s).dt.toNat = s.dt.toNat - n ∧ (State.timerStep^[n] s).st.toNat = s.st.toNat - n := by
  induction n with
  | zero => exact ⟨rfl, rfl, rfl⟩
  | succ n ih =>
    obtain ⟨hp, hdt, hst⟩ := ih
    rw [Function.iterate_succ_apply', timerStep_due (by rw [hp, h])]
    exact ⟨hp, (countDown_toNat _).trans (by omega), (countDown_toNat _).trans (by omega)⟩

/-- The wait step of a tick that runs to its end gives its registers and its wait state. -/
theorem afterExecute_waitStep {s t : State} (h : s.afterExecute = .next t) :
    ∃ u, s.waitStep = .next u ∧ t.regs = u.regs ∧ t.wait = u.wait := by
  obtain ⟨u, hu, rfl⟩ := afterExecute_eq_next h
  exact ⟨u, hu, endTick_regs u, endTick_wait u⟩

/-! ### A closed gate -/

@[simp] theorem beginTick_wait (s : State) : s.beginTick.wait = s.wait := by rw [beginTick_eq]

@[simp] theorem v_beginTick (s : State) (k : Reg) : s.beginTick.v k = s.v k := v_of_regs (by rw [beginTick_eq]) k

theorem not_gate_of_wait {s : State} (h : s.wait ≠ .resume) : ¬ s.gate := fun hg => h hg.1

theorem closed_step {s v : State} (hs : s.ticking) (hg : ¬ s.gate) (hv : s.beginTick.waitStep = .next v) :
    step s = .next v.endTick.takeNextMove := by
  rw [step_closed hs hg, afterExecute_of_waitStep hv]
  rfl

/-- A tick whose gate is closed, as one update; the wait step is what gives `V` and `WAIT`. -/
theorem closed_step_eq {s t : State} (hs : s.ticking) (hg : ¬ s.gate) (h : step s = .next t) :
    ∃ v, s.beginTick.waitStep = .next v ∧ t = State.takeNextMove { s with
      keys := s.sampleKeys.keys, report := none, loadOpen := false, present := s.df, df := false
      regs := v.regs, wait := v.wait, dt := s.timerStep.dt, st := s.timerStep.st
      tone := decide (s.timerStep.st ≠ 0) } := by
  rw [step_closed hs hg] at h
  obtain ⟨u, hu, ht⟩ := andThen_eq_next h
  obtain ⟨v, hv, rfl⟩ := afterExecute_eq_next hu
  refine ⟨v, hv, (Host.Outcome.next.inj ht).symm.trans (congrArg _ ?_)⟩
  have hdt : v.timerStep.dt = s.timerStep.dt := by
    rw [timerStep_dt, timerStep_dt, waitStep_frame hv, beginTick_eq]
  have hst : v.timerStep.st = s.timerStep.st := by
    rw [timerStep_st, timerStep_st, waitStep_frame hv, beginTick_eq]
  rw [endTick_eq, hdt, hst, waitStep_frame hv, beginTick_eq]

/-- Settles O9: the one update of a closed-gate tick, field by field. -/
theorem closedGateExecutesNothing : Obligations.ClosedGateExecutesNothing := by
  intro s t hs hdf hg h
  obtain ⟨v, hv, rfl⟩ := closed_step_eq hs (not_gate_iff.2 hg) h
  have hregs : ∀ k, s.wait ≠ .halt k → v.v k = s.v k := fun k hk =>
    (waitStep_v hv (by rwa [beginTick_wait])).trans (v_beginTick s k)
  have hresume : s.wait = .resume → v.wait = .resume := fun hw => by
    have e := waitStep_resume ((beginTick_wait s).trans hw)
    rw [← Host.Outcome.next.inj (e.symm.trans hv), beginTick_wait, hw]
  exact ⟨takeNextMove_pc _, takeNextMove_i _, takeNextMove_jf _, takeNextMove_sp _, takeNextMove_stack _,
    takeNextMove_mem _, takeNextMove_fb _, (takeNextMove_fault _).trans hs.2.2, takeNextMove_report _,
    (takeNextMove_present _).trans hdf, takeNextMove_settings _,
    fun k hk => (v_takeNextMove _ k).trans (hregs k hk),
    fun k => (keyDown_of_keys (s := s.sampleKeys) (by exact takeNextMove_keys _) k).trans (keyDown_sampleKeys s k),
    (takeNextMove_dt _).trans (timerStep_dt s), (takeNextMove_st _).trans (timerStep_st s),
    by rw [takeNextMove_tone, takeNextMove_st], takeNextMove_df _, takeNextMove_loadReport _,
    fun hw => (takeNextMove_wait _).trans (hresume hw)⟩

/-- Settles O15: one timer step in a tick, and the count of `N` steps by induction on `N`. -/
theorem timersCountDownAndStopAtZero : Obligations.TimersCountDownAndStopAtZero := by
  refine ⟨fun u t h => ?_, fun s t hs hg h => ?_,
    fun s => ⟨fun hdue n => (iterate_timerStep hdue n).2, timerStep_notDue⟩⟩
  · rw [← timerStep_dt, ← timerStep_st, afterExecute_eq h]
    exact ⟨rfl, rfl⟩
  · obtain ⟨v, -, rfl⟩ := closed_step_eq hs (not_gate_iff.2 hg) h
    rw [← timerStep_dt, ← timerStep_st, takeNextMove_dt, takeNextMove_st]
    exact ⟨rfl, rfl⟩

/-! ### The key wait over a tick (45_keyboard_timers_random.md) -/

theorem v_of_takeNextMove_endTick (u : State) (k : Reg) : u.endTick.takeNextMove.v k = u.v k := by
  rw [v_takeNextMove, v_of_regs (endTick_regs u)]

theorem keyDown_of_takeNextMove_endTick (u : State) (k : Fin 16) : u.endTick.takeNextMove.keyDown k = u.keyDown k :=
  keyDown_of_keys (by rw [takeNextMove_keys, endTick_keys]) k

theorem waitStep_wait_of_halt {s t : State} {r : Reg} (hw : s.wait = .halt r) (h : s.waitStep = .next t) :
    t.wait = .halt r ∨ t.wait = .waitForRelease r := by
  cases hk : s.lowestKey with
  | none =>
    obtain rfl := Host.Outcome.next.inj ((waitStep_halt_none hw hk).symm.trans h)
    exact .inl hw
  | some k =>
    obtain rfl := Host.Outcome.next.inj ((waitStep_halt_some hw hk).symm.trans h)
    exact .inr rfl

/-- A tick in `Halt(r)`, with the keys of its own sample. -/
theorem halt_step {s : State} {r : Reg} (hs : s.ticking) (hw : s.wait = .halt r) :
    ∃ t, step s = .next t ∧ (∀ k, t.keyDown k = s.beginTick.keyDown k) ∧
      ((∀ k, t.keyDown k = false) → t.wait = .halt r ∧ t.regs = s.regs) ∧
      (∀ k, t.keyDown k = true → (∀ j, j < k → t.keyDown j = false) →
        (t.v r).toNat = k.val ∧ t.wait = .waitForRelease r) := by
  have hg : ¬ s.gate := not_gate_of_wait (by rw [hw]; exact nofun)
  have hw' : s.beginTick.wait = .halt r := (beginTick_wait s).trans hw
  cases hk : s.beginTick.lowestKey with
  | none =>
    have hup := lowestKey_eq_none.1 hk
    refine ⟨_, closed_step hs hg (waitStep_halt_none hw' hk), keyDown_of_takeNextMove_endTick _,
      fun _ => ⟨?_, ?_⟩, fun k hd => ?_⟩
    · rw [takeNextMove_wait, endTick_wait, hw']
    · rw [takeNextMove_regs, endTick_regs, beginTick_eq]
    · rw [keyDown_of_takeNextMove_endTick, hup k] at hd
      cases hd
  | some k₀ =>
    have hkeys : ∀ k, (s.beginTick.latchKey r k₀).endTick.takeNextMove.keyDown k = s.beginTick.keyDown k :=
      keyDown_of_takeNextMove_endTick (s.beginTick.latchKey r k₀)
    refine ⟨_, closed_step hs hg (waitStep_halt_some hw' hk), hkeys, fun hup => ?_, fun k hd hlow => ⟨?_, ?_⟩⟩
    · exact absurd ((hup k₀).symm.trans ((hkeys k₀).trans (lowestKey_eq_some hk).1)) Bool.false_ne_true
    · obtain rfl : k₀ = k := Option.some.inj (hk.symm.trans
        (lowestKey_of ((hkeys k).symm.trans hd) fun j hj => (hkeys j).symm.trans (hlow j hj)))
      rw [v_of_takeNextMove_endTick, v_latchKey_toNat]
    · rw [takeNextMove_wait, endTick_wait]
      rfl

/-- Settles O18: the wait step in `Halt(r)`, in a tick by the keys of step 1, and every other move by its way. -/
theorem haltLatchesTheLowestKeyDown : Obligations.HaltLatchesTheLowestKeyDown := by
  refine ⟨fun u r hw hup => waitStep_halt_none hw (lowestKey_eq_none.2 hup), fun u r k hw hd hlow => ?_,
    fun s r hs hw => ?_, fun s t r hw h => ?_, fun u t r hw h => waitStep_regs h (by rw [hw]; exact nofun)⟩
  · exact ⟨_, waitStep_halt_some hw (lowestKey_of hd hlow), v_latchKey_toNat u r k, rfl,
      fun q hq => v_setV_other u _ hq, rfl⟩
  · obtain ⟨t, ht, hkeys, hnone, hsome⟩ := halt_step hs hw
    exact ⟨t, ht, fun k => (hkeys k).trans (keyDown_beginTick s k), hnone, hsome⟩
  · rcases step_ways h with ⟨hreset, -⟩ | ⟨-, rfl⟩ | ⟨_, -, -, rfl⟩ | hs
    · exact .inr (.inr hreset)
    · exact .inl ((takeNextMove_wait s).trans hw)
    · exact .inl ((takeNextMove_wait _).trans hw)
    · have hg : ¬ s.gate := not_gate_of_wait (by rw [hw]; exact nofun)
      obtain ⟨v, hv, rfl⟩ := closed_step_eq hs hg h
      rw [takeNextMove_wait]
      exact (waitStep_wait_of_halt ((beginTick_wait s).trans hw) hv).imp_right .inl

/-- Settles O19: the gate is closed, and the wait step tests the latched key in the keys of step 1. -/
theorem releaseOfTheLatchedKeyResumes : Obligations.ReleaseOfTheLatchedKeyResumes := by
  intro s r k hs hw hk
  have hg : ¬ s.gate := not_gate_of_wait (by rw [hw]; exact nofun)
  have hv := waitStep_release (s := s.beginTick) (r := r) (k := k) ((beginTick_wait s).trans hw)
    (by rw [v_beginTick, hk])
  refine ⟨_, closed_step hs hg hv, ?_, ?_, ?_⟩
  · rw [takeNextMove_regs, endTick_regs, beginTick_eq]
  · rw [keyDown_of_takeNextMove_endTick]
    exact keyDown_beginTick s k
  · rw [takeNextMove_wait, endTick_wait, keyDown_of_takeNextMove_endTick]
    rfl

end Sys2Proof.Machine

/-! ## The outputs that influence nothing (10_state.md R34, R41) -/

namespace Sys2Proof.Machine

theorem waitStep_noKey {s : State} {r : Reg} (hw : s.wait = .waitForRelease r) (hk : keyOf (s.v r) = none) :
    s.waitStep = .fault (.latchedKeyOutOfRange r (s.v r)) := by
  simp [State.waitStep, hw, hk]

/-- Where each part of a chain comes to another `load_report` through its answer, the chain does. -/
theorem andThen_amid {g : Settings → Settings} {m : HostMove → HostMove} {l : Option LoadReport → Option LoadReport}
    {r r' : Result} {b : State → Result} (hr : r' = amidNext g m l r)
    (hb : ∀ u : State, b (u.amid g m l) = amidNext g m l (b u)) :
    andThen r' b = amidNext g m l (andThen r b) := by
  subst hr
  cases r with
  | next u => exact hb u
  | fault | refused => rfl

theorem waitStep_amid (g : Settings → Settings) (m : HostMove → HostMove) (l : Option LoadReport → Option LoadReport)
    (u : State) : (u.amid g m l).waitStep = amidNext g m l u.waitStep := by
  cases hw : u.wait with
  | resume =>
    rw [waitStep_resume hw]
    exact waitStep_resume hw
  | halt r =>
    cases hk : u.lowestKey with
    | none =>
      rw [waitStep_halt_none hw hk]
      exact waitStep_halt_none hw hk
    | some k =>
      rw [waitStep_halt_some hw hk]
      exact waitStep_halt_some (s := u.amid g m l) hw hk
  | waitForRelease r =>
    cases hk : keyOf (u.v r) with
    | none =>
      rw [waitStep_noKey hw hk]
      exact waitStep_noKey (s := u.amid g m l) hw hk
    | some k =>
      rw [waitStep_release hw (keyOf_eq_some.1 hk)]
      exact waitStep_release (s := u.amid g m l) hw (keyOf_eq_some.1 hk)

section

variable (l : Option LoadReport → Option LoadReport)

/-- `s` with another `load_report`. -/
abbrev State.reloaded (s : State) : State := s.amid id id l

theorem endTick_reloaded (u : State) : (u.reloaded l).endTick = u.endTick.reloaded l := by
  have hdt : (u.reloaded l).timerStep.dt = u.timerStep.dt := (timerStep_dt _).trans (timerStep_dt u).symm
  have hst : (u.reloaded l).timerStep.st = u.timerStep.st := (timerStep_st _).trans (timerStep_st u).symm
  rw [endTick_eq, endTick_eq, hdt, hst]
  rfl

theorem afterExecute_reloaded (u : State) : (u.reloaded l).afterExecute = amidNext id id l u.afterExecute :=
  andThen_amid (waitStep_amid id id l u) fun v => congrArg _ (endTick_reloaded l v)

theorem finishTick_reloaded (u : State) : finishTick (u.reloaded l) = amidNext id id l (finishTick u) := by
  rcases finishTick_cases u with ⟨hf, e⟩ | ⟨hf, e⟩
  · rw [e]
    exact if_pos hf
  · rw [e, ← afterExecute_reloaded]
    exact if_neg (by simp [State.amid, hf])

theorem executeOne_reloaded (u : State) : executeOne (u.reloaded l) = amidNext id id l (executeOne u) := by
  cases hf : State.fetch { u with jf := false } with
  | error c =>
    rw [executeOne_of_fetchError hf]
    exact executeOne_of_fetchError (u := u.reloaded l) hf
  | ok w =>
    cases hd : decodeWord w with
    | error e =>
      obtain rfl := decodeWord_error hd
      rw [executeOne_of_decodeError hf hd]
      exact executeOne_of_decodeError (u := u.reloaded l) hf hd
    | ok i =>
      rw [executeOne_of_decode hf hd, ← exec_amid id id l i _ (.inr rfl) (.inr rfl)]
      exact executeOne_of_decode (u := u.reloaded l) hf hd

theorem takeNextMove_reloaded (u : State) : (u.reloaded l).takeNextMove = u.takeNextMove.reloaded l := by
  unfold State.takeNextMove State.reloaded State.amid
  dsimp only
  split <;> rfl

end

/-- Step 1 clears the two outputs, so only `load_report` is left of the change. -/
theorem beginTick_outputs (s : State) (r : Option Report) (p : Bool) (l : Option LoadReport) :
    State.beginTick { s with report := r, present := p, loadReport := l } = s.beginTick.reloaded fun _ => l := by
  unfold State.beginTick State.sampleKeys State.reloaded State.amid
  dsimp only
  split <;> rfl

/-- Settles O54: every part of the tick carries `load_report` along unread. -/
theorem reportOutputsInfluenceNothing : Obligations.ReportOutputsInfluenceNothing := by
  intro s r p l hs
  have hnext : ∀ u : State, (Host.Outcome.next (u.reloaded fun _ => l).takeNextMove : Result) =
      amidNext id id (fun _ => l) (.next u.takeNextMove) := fun u => congrArg _ (takeNextMove_reloaded _ u)
  by_cases hg : s.gate
  · rw [step_open (s := { s with report := r, present := p, loadReport := l }) hs hg, step_open hs hg,
      beginTick_outputs]
    exact andThen_amid (andThen_amid (executeOne_reloaded _ _) (finishTick_reloaded _)) hnext
  · rw [step_closed (s := { s with report := r, present := p, loadReport := l }) hs hg, step_closed hs hg,
      beginTick_outputs]
    exact andThen_amid (afterExecute_reloaded _ _) hnext

end Sys2Proof.Machine

/-! ## The invariant (10_state.md R37) -/

namespace Sys2Proof.Machine

/-- The part of the invariant that holds within a tick as well. -/
structure State.Bounds (s : State) : Prop where
  pcBound : s.pc.toNat < 4096
  stackBound : ∀ k, (s.stackAt k).toNat < 4096
  stackZero : s.stackAt 0 = 0
  memWf : s.mem.wf

theorem State.Inv.bounds {s : State} (h : s.Inv) : s.Bounds := ⟨h.pcBound, h.stackBound, h.stackZero, h.memWf⟩

/-- Settles O56: every clause on the literal reset state. -/
theorem resetStateMeetsTheInvariant : Obligations.ResetStateMeetsTheInvariant := by
  intro g m ms n
  have hstack : ∀ k, (State.resetWith g m ms n).stackAt k = 0 := fun k => by
    simp [State.stackAt, State.resetWith, Vector.get_eq_getElem]
  have hpc : (BitVec.ofNat 16 Config.progBase).toNat < 4096 := by decide
  exact ⟨hpc, fun k => by rw [hstack]; decide, hstack 0, reset_mem_wf, rfl, rfl, nofun, nofun⟩

theorem takeNextMove_inv {s : State} (h : s.Inv) : s.takeNextMove.Inv := by
  obtain ⟨h1, h2, h3, h4, h5, h6, h7, h8⟩ := h
  unfold State.takeNextMove
  split <;> exact ⟨h1, h2, h3, h4, h5, h6, h7, h8⟩

/-! ### An instruction keeps the bounds -/

/-- `CALL` pushes an address below 4096, and never into entry 0. -/
theorem exec_keeps_stack {i : Instr} {s t : State} (hb : s.Bounds) (h : exec i s = .next t) :
    (∀ k, (t.stackAt k).toNat < 4096) ∧ t.stackAt 0 = 0 := by
  have hold : t.stack = s.stack → (∀ k, (t.stackAt k).toNat < 4096) ∧ t.stackAt 0 = 0 := fun e => by
    simp only [State.stackAt, e]
    exact ⟨hb.stackBound, hb.stackZero⟩
  rcases exec_eq_next h with ⟨c, -, rfl⟩ | hw
  · exact hold rfl
  · cases hi : writesStack i with
    | false => exact hold (by rw [hw.frame, hi]; rfl)
    | true =>
      obtain ⟨nnn, rfl⟩ := writesStack_iff.1 hi
      by_cases hsp : s.sp = 15
      · cases (exec_callNnn_full hsp).symm.trans h
        exact hold rfl
      · cases (exec_callNnn_below hsp).symm.trans h
        have hne : (0 : BitVec 4) ≠ s.sp + 1 := fun e => hsp (by bv_omega)
        refine ⟨fun k => ?_, (stackAt_push_other s s.pc hne).trans hb.stackZero⟩
        by_cases hk : k = s.sp + 1
        · subst hk
          exact (congrArg BitVec.toNat (stackAt_push_same s s.pc)).trans_lt hb.pcBound
        · exact (congrArg BitVec.toNat (stackAt_push_other s s.pc hk)).trans_lt (hb.stackBound k)

/-- The two stores write inside memory, by their range check. -/
theorem exec_keeps_memWf {i : Instr} {s t : State} (hm : s.mem.wf) (h : exec i s = .next t) : t.mem.wf := by
  rcases exec_eq_next h with ⟨c, -, rfl⟩ | hw
  · exact hm
  · cases hi : writesMemory i with
    | false =>
      have e : t.mem = s.mem := by rw [hw.frame, hi]; rfl
      exact e ▸ hm
    | true =>
      obtain ⟨x, rfl | rfl⟩ := writesMemory_iff.1 hi
      · by_cases hin : s.i.toNat + 2 ≤ 4095
        · cases (exec_ldBVx_inRange hin).symm.trans h
          refine Memory.wf_writeBytes _ hm ?_
          change s.i.toNat + 3 ≤ 4096
          omega
        · cases (withData_outOfRange (n := 3) (not_le.1 hin)).symm.trans h
          exact hm
      · by_cases hin : s.i.toNat + x.val ≤ 4095
        · cases (exec_ldMemVx_inRange hin).symm.trans h
          refine Memory.wf_writeBytes _ hm ?_
          rw [List.length_map, length_regsThrough]
          change s.i.toNat + (x.val + 1) ≤ 4096
          omega
        · cases (withData_outOfRange (n := x.val + 1) (not_le.1 hin)).symm.trans h
          exact hm

theorem exec_keeps_bounds {i : Instr} {s t : State} (hb : s.Bounds) (h : exec i s = .next t) : t.Bounds := by
  obtain ⟨hstack, hzero⟩ := exec_keeps_stack hb h
  refine ⟨?_, hstack, hzero, exec_keeps_memWf hb.memWf h⟩
  rcases exec_eq_next h with ⟨c, -, rfl⟩ | hw
  · exact hb.pcBound
  · exact hw.pcBound

/-! ### A move keeps the invariant -/

theorem beginTick_bounds {s : State} (hb : s.Bounds) : s.beginTick.Bounds := by
  rw [beginTick_eq]
  exact ⟨hb.pcBound, hb.stackBound, hb.stackZero, hb.memWf⟩

theorem atExecute_bounds {s : State} (hb : s.Bounds) : s.atExecute.Bounds := by
  rw [atExecute_eq]
  exact ⟨hb.pcBound, hb.stackBound, hb.stackZero, hb.memWf⟩

/-- Whatever the wait state was before the wait step, a key latched after it is down (R37 f). -/
theorem waitStep_latchedKey {s t : State} (h : s.waitStep = .next t) {r : Reg} (hr : t.wait = .waitForRelease r) :
    ∃ k : Fin 16, (t.v r).toNat = k.val ∧ t.keyDown k = true := by
  rcases waitStep_cases s with ⟨hw, e⟩ | ⟨_, hw, -, e⟩ | ⟨q, k, hw, hk, -⟩ | ⟨q, k, hw, hk, hd, e⟩ |
    ⟨_, _, -, -, -, e⟩ | ⟨_, -, -, e⟩
  · cases h.symm.trans e
    cases hw.symm.trans hr
  · cases h.symm.trans e
    cases hw.symm.trans hr
  · cases h.symm.trans (waitStep_halt_some hw hk)
    cases hr
    exact ⟨k, v_latchKey_toNat .., (lowestKey_eq_some hk).1⟩
  · cases h.symm.trans e
    cases hw.symm.trans hr
    exact ⟨k, keyOf_eq_some.1 hk, hd⟩
  · cases h.symm.trans e
    cases hr
  · cases h.symm.trans e

/-- Steps 3 to 6 restore the whole invariant from the bounds. -/
theorem afterExecute_inv {s t : State} (hb : s.Bounds) (hf : s.fault = none) (h : s.afterExecute = .next t) :
    t.Inv := by
  obtain ⟨u, hu, hregs, hwait⟩ := afterExecute_waitStep h
  have hkeys : t.keys = u.keys := by rw [(afterExecute_frame h).1, waitStep_frame hu]
  have hkey : ∀ r, t.wait = .waitForRelease r → ∃ k : Fin 16, (t.v r).toNat = k.val ∧ t.keyDown k = true :=
    fun r hr => by
      obtain ⟨k, hv, hd⟩ := waitStep_latchedKey hu (hwait.symm.trans hr)
      exact ⟨k, (congrArg _ (v_of_regs hregs r)).trans hv, (keyDown_of_keys hkeys k).trans hd⟩
  obtain ⟨r, w, d, e, rfl⟩ : ∃ r w d e, t = { s with
      regs := r, wait := w, dt := d, st := e, present := s.df, df := false, tone := decide (e ≠ 0) } :=
    ⟨_, _, _, _, afterExecute_eq h⟩
  exact ⟨hb.pcBound, hb.stackBound, hb.stackZero, hb.memWf, rfl, rfl, hkey, fun f e => nomatch hf.symm.trans e⟩

/-- A fault that ends the tick leaves all but the outputs of step 1 as the invariant had it. -/
theorem raise_inv {s : State} {c : FatalCause} (h : s.Inv) (hw : s.wait = .resume) : (s.atExecute.raise c).Inv := by
  obtain ⟨hpc, hstack, hzero, hmem⟩ := atExecute_bounds h.bounds
  have hw' : s.atExecute.wait = .resume := by rw [atExecute_eq, hw]
  refine ⟨hpc, hstack, hzero, hmem, ?_, ?_, fun r hr => ?_, ?_⟩
  · rw [atExecute_eq]
    exact h.drawFlag
  · rw [atExecute_eq]
    exact h.toneLevel
  · cases hw'.symm.trans hr
  · rintro f ⟨⟩
    refine ⟨rfl, hw', ?_⟩
    rw [atExecute_eq]
    exact ⟨rfl, rfl, rfl⟩

theorem ticking_inv {s t : State} (hs : s.ticking) (h : s.Inv) (ht : step s = .next t) : t.Inv := by
  have hf : s.atExecute.fault = none := by rw [atExecute_eq]; exact hs.2.2
  rcases ticking_ways hs ht with ⟨-, u, hu, rfl⟩ | ⟨hg, c, rfl⟩ | ⟨-, w, i, v, u, -, -, hv, hw, hu, rfl⟩
  · exact takeNextMove_inv (afterExecute_inv (beginTick_bounds h.bounds) hf hu)
  · exact takeNextMove_inv (raise_inv h hg.1)
  · exact takeNextMove_inv
      (afterExecute_inv (exec_keeps_bounds (atExecute_bounds h.bounds) hv) (hw.fault.trans hf) hu)

/-- A load stays inside memory; its window shuts out a latched fault. -/
theorem doLoad_inv {s : State} (h : s.Inv) (hopen : s.loadOpen = true) (bytes : List Byte) : (s.doLoad bytes).Inv := by
  have hmem : (s.doLoad bytes).mem.wf := by
    refine Memory.wf_writeBytes _ h.memWf ?_
    rw [List.length_take]
    exact Nat.add_le_add_left (Nat.min_le_left ..) _
  refine ⟨h.pcBound, h.stackBound, h.stackZero, hmem, h.drawFlag, h.toneLevel, h.latchedKey, fun f hf => ?_⟩
  obtain ⟨-, -, -, -, hclosed⟩ := h.afterFault f hf
  simp [hopen] at hclosed

/-- Settles O57, by the four ways a move goes. -/
theorem everyStepKeepsTheInvariant : Obligations.EveryStepKeepsTheInvariant := by
  intro s t h ht
  rcases step_ways ht with ⟨-, rfl⟩ | ⟨-, rfl⟩ | ⟨bytes, -, hopen, rfl⟩ | hs
  · exact takeNextMove_inv (resetStateMeetsTheInvariant ..)
  · exact takeNextMove_inv h
  · exact takeNextMove_inv (doLoad_inv h hopen bytes)
  · exact ticking_inv hs h ht

/-! ### From the invariant every tick answers -/

theorem waitStep_answers {s : State} (h : ∀ r, s.wait = .waitForRelease r → ∃ k : Fin 16, (s.v r).toNat = k.val) :
    ∃ t, s.waitStep = .next t := by
  rcases waitStep_cases s with ⟨-, e⟩ | ⟨_, -, -, e⟩ | ⟨_, _, -, -, e⟩ | ⟨_, _, -, -, -, e⟩ |
    ⟨_, _, -, -, -, e⟩ | ⟨r, hw, hk, -⟩
  · exact ⟨_, e⟩
  · exact ⟨_, e⟩
  · exact ⟨_, e⟩
  · exact ⟨_, e⟩
  · exact ⟨_, e⟩
  · obtain ⟨k, hk'⟩ := h r hw
    cases hk.symm.trans (keyOf_eq_some.2 hk')

/-- Only the key wait leaves `Resume`, for `Halt` (45_keyboard_timers_random.md R170). -/
theorem exec_wait {i : Instr} {s t : State} (hw : s.wait = .resume) (h : exec i s = .next t) :
    t.wait = .resume ∨ ∃ r, t.wait = .halt r := by
  rcases exec_eq_next h with ⟨c, -, rfl⟩ | hn
  · exact .inl hw
  · cases hi : writesWait i with
    | false => exact .inl (by rw [hn.frame, hi]; exact hw)
    | true =>
      obtain ⟨x, rfl⟩ := writesWait_iff.1 hi
      cases h
      exact .inr ⟨x, retire_wait ..⟩

theorem executeOne_answers {s : State} (hg : s.gate) :
    ∃ v, executeOne s.beginTick = .next v ∧ (v.wait = .resume ∨ ∃ r, v.wait = .halt r) := by
  have hw : s.atExecute.wait = .resume := by rw [atExecute_eq]; exact hg.1
  rcases executeOne_cases s.beginTick with ⟨c, -, e⟩ | ⟨w, -, -, e⟩ | ⟨w, i, -, -, e⟩
  · exact ⟨_, e, .inl hw⟩
  · exact ⟨_, e, .inl hw⟩
  · obtain ⟨v, hv⟩ := everyInstructionAnswersANextState i s.atExecute
    exact ⟨v, e.trans hv, exec_wait hw hv⟩

theorem finishTick_answers {v : State} (h : v.wait = .resume ∨ ∃ r, v.wait = .halt r) :
    ∃ t, finishTick v = .next t := by
  rcases finishTick_cases v with ⟨-, e⟩ | ⟨-, e⟩
  · exact ⟨v, e⟩
  · obtain ⟨u, hu⟩ := waitStep_answers (s := v) fun r hr => by
      rcases h with hw | ⟨_, hw⟩ <;> cases hw.symm.trans hr
    exact ⟨_, e.trans (afterExecute_of_waitStep hu)⟩

theorem ticking_answers {s : State} (hs : s.ticking) (h : s.Inv) : ∃ t, step s = .next t := by
  by_cases hg : s.gate
  · obtain ⟨v, hv, hw⟩ := executeOne_answers hg
    obtain ⟨t, ht⟩ := finishTick_answers hw
    refine ⟨t.takeNextMove, ?_⟩
    rw [step_open hs hg, hv]
    exact congrArg (andThen · _) ht
  · obtain ⟨v, hv⟩ := waitStep_answers (s := s.beginTick) fun r hr => by
      obtain ⟨k, hk, -⟩ := h.latchedKey r ((beginTick_wait s).symm.trans hr)
      exact ⟨k, (congrArg _ (v_beginTick s r)).trans hk⟩
    exact ⟨_, closed_step hs hg hv⟩

/-- Settles O58, by the host's command. -/
theorem invariantStatesNeverStopOnATick : Obligations.InvariantStatesNeverStopOnATick := by
  intro s h
  cases hcmd : s.pending.cmd with
  | reset => exact .inl ⟨_, step_of_resets (.inl hcmd)⟩
  | load bytes =>
    cases hopen : s.loadOpen with
    | true => exact .inl ⟨_, step_of_load hcmd hopen⟩
    | false => exact .inr ⟨bytes, rfl, rfl, step_of_refusedLoad hcmd hopen⟩
  | tick =>
    refine .inl ?_
    cases hreq : s.pending.inputs.resetReq with
    | true => exact ⟨_, step_of_resets (.inr ⟨hcmd, hreq⟩)⟩
    | false =>
      cases hf : s.fault with
      | some f => exact ⟨_, latchedFaultFreezesTheBlock s f hcmd hreq hf⟩
      | none => exact ticking_answers ⟨hcmd, hreq, hf⟩ h

end Sys2Proof.Machine

/-! ## A tick with an open gate, settled (40_instruction_cycle.md R90) -/

namespace Sys2Proof.Machine

/-! ### The word an extended opcode reports -/

/-- No extended opcode stands in a family with an ignored nibble, so its encoding is the fetched word
(log entry 10). -/
theorem encode_of_isExtended {w : Word} {i : Instr} (hi : decodeWord w = .ok i) (hext : isExtended i = true) :
    encode i = w := by
  have hrow := decodeRow_of_ok hi
  have h59 : ¬ (opField w = 0x5 ∨ opField w = 0x9) := by
    rintro (hop | hop)
    · have e : decodeRow w = some (.seVxVy (xField w) (yField w)) := by simp [decodeRow, hop]
      cases hrow.symm.trans e
      cases hext
    · have e : decodeRow w = some (.sneVxVy (xField w) (yField w)) := by simp [decodeRow, hop]
      cases hrow.symm.trans e
      cases hext
  obtain ⟨-, he⟩ := decodeRow_encodedBy hrow
  rwa [canonical, if_neg h59] at he

theorem Raises.not_isExtended {i : Instr} {s : State} {c : FatalCause} (h : Raises i s c) : isExtended i = false := by
  rcases h with ⟨_, rfl, -⟩ | ⟨rfl, -⟩ | ⟨_, rfl | rfl, -⟩ | ⟨_, -, -, ⟨_, rfl | rfl | rfl⟩ | ⟨_, _, _, rfl⟩⟩ <;> rfl

/-! ### The keys and the report after an open-gate tick -/

theorem open_step_keys {s t : State} (hs : s.ticking) (hg : s.gate) (h : step s = .next t) :
    t.keys = s.atExecute.keys := by
  rcases ticking_ways hs h with ⟨hclosed, -⟩ | ⟨-, c, rfl⟩ | ⟨-, w, i, v, u, -, -, -, hv, hu, rfl⟩
  · exact absurd hg hclosed
  · rw [takeNextMove_keys]
    rfl
  · rw [takeNextMove_keys, (afterExecute_frame hu).1, hv.frame]

theorem atExecute_report (s : State) : s.atExecute.report = none := by rw [atExecute_eq]

theorem open_step_report_of_noDecode {s t : State} (hs : s.ticking) (hg : s.gate) (h : step s = .next t)
    (hno : ∀ w i, ¬ (s.atExecute.fetch = .ok w ∧ decodeWord w = .ok i)) : t.report = none := by
  rcases ticking_ways hs h with ⟨hclosed, -⟩ | ⟨-, c, rfl⟩ | ⟨-, w, i, v, u, hw, hi, -⟩
  · exact absurd hg hclosed
  · rw [takeNextMove_report]
    exact atExecute_report s
  · exact absurd ⟨hw, hi⟩ (hno w i)

section

variable {s : State} {w : Word} {i : Instr} (hs : s.ticking) (hg : s.gate)
  (hw : s.atExecute.fetch = .ok w) (hi : decodeWord w = .ok i)

include hs hg hw hi

/-- R101: an instruction's own fault ends the tick. -/
theorem open_step_of_fault {u : State} {f : FaultRecord} (he : exec i s.atExecute = .next u) (hf : u.fault = some f) :
    step s = .next (latched s.atExecute f.cause).takeNextMove := by
  have hrun : s.atExecute.running := by rw [State.running, atExecute_eq]; exact hs.2.2
  obtain ⟨rfl, -⟩ := fatalFaultsArePrecise i s.atExecute u f hrun he hf
  exact step_open_of_raise hs hg ((executeOne_beginTick hw hi).trans he)

/-- An instruction without a fault is followed by the wait step and the end of the tick. -/
theorem open_step_of_completed {u v : State} (he : exec i s.atExecute = .next u) (hf : u.fault = none)
    (hv : u.waitStep = .next v) : step s = .next v.endTick.takeNextMove := by
  have hfin : finishTick u = u.afterExecute := if_neg (by simp [hf])
  rw [step_open hs hg, executeOne_beginTick hw hi, he]
  exact congrArg (andThen · _) (hfin.trans (afterExecute_of_waitStep hv))

/-- R34: `REPORT` after the tick is the word of an extended opcode, and clear otherwise. -/
theorem open_step_report {t : State} (h : step s = .next t) :
    t.report = if isExtended i then some (.notImplemented w) else none := by
  rcases raisesOrWrites i s.atExecute with ⟨c, hc, e⟩ | ⟨u, e, hu⟩
  · rw [open_step_of_fault hs hg hw hi e rfl] at h
    cases h
    rw [hc.not_isExtended, takeNextMove_report]
    exact atExecute_report s
  · have hf : u.fault = none := by rw [hu.fault, atExecute_eq]; exact hs.2.2
    rw [step_open hs hg, executeOne_beginTick hw hi, e] at h
    obtain ⟨v, hv, ht⟩ := andThen_eq_next h
    have hfin : finishTick u = u.afterExecute := if_neg (by simp [hf])
    have hreport : v.report = u.report := (afterExecute_frame (hfin.symm.trans hv)).2
    cases ht
    rw [takeNextMove_report, hreport, hu.frame]
    cases hext : isExtended i with
    | true => exact congrArg (fun w => some (Report.notImplemented w)) (encode_of_isExtended hi hext)
    | false => exact atExecute_report s

end

/-! ### The wait step after an instruction, written out -/

/-- What the wait step makes of a state an instruction leaves, which waits for no release. -/
theorem waitStep_afterInstruction {u : State} (hu : u.wait = .resume ∨ ∃ r, u.wait = .halt r) :
    ∃ v, u.waitStep = .next v ∧ (u.wait = .resume → v = u) ∧
      (∀ r, u.wait = .halt r → (∀ k, u.keyDown k = false) → v = u) ∧
      (∀ r k, u.wait = .halt r → u.keyDown k = true → (∀ j, j < k → u.keyDown j = false) → v = u.latchKey r k) := by
  rcases hu with hw | ⟨r, hw⟩
  · exact ⟨u, waitStep_resume hw, fun _ => rfl, fun _ _ _ => rfl, fun r k hr => nomatch hw.symm.trans hr⟩
  · cases hk : u.lowestKey with
    | none =>
      refine ⟨u, waitStep_halt_none hw hk, fun _ => rfl, fun _ _ _ => rfl, fun _ k _ hd _ => ?_⟩
      cases hd.symm.trans (lowestKey_eq_none.1 hk k)
    | some k₀ =>
      refine ⟨_, waitStep_halt_some hw hk, fun hr => (nomatch hw.symm.trans hr), fun _ _ hup => ?_,
        fun r' k hr hd hlow => ?_⟩
      · cases (lowestKey_eq_some hk).1.symm.trans (hup k₀)
      · cases hw.symm.trans hr
        cases hk.symm.trans (lowestKey_of hd hlow)
        rfl

theorem exec_pending {i : Instr} {s t : State} (h : exec i s = .next t) : t.pending = s.pending := by
  rcases exec_eq_next h with ⟨c, -, rfl⟩ | hw
  · rfl
  · rw [hw.frame]

/-- Settles O60: the tick's parts, each by its own lemma above. -/
theorem openGateTickGoesThroughItsSteps : Obligations.OpenGateTickGoesThroughItsSteps := by
  intro s hs hwait hdue
  have hg : s.gate := ⟨hwait, hdue⟩
  have hframe : s.atExecute = { s with
      keys := s.atExecute.keys, report := none, present := false, loadOpen := false, jf := false } := by
    rw [atExecute_eq]
  refine ⟨hframe, fun t h k => (keyDown_of_keys (open_step_keys hs hg h) k).trans (keyDown_atExecute s k),
    fun t h => open_step_report_of_noDecode hs hg h, fun w i hw hi => ⟨fun t h => open_step_report hs hg hw hi h,
      fun u f he hf => open_step_of_fault hs hg hw hi he hf, fun u he hf => ?_⟩⟩
  have hu := exec_wait (by rw [hframe]; exact hwait) he
  obtain ⟨v, hv, hresume, hnone, hsome⟩ := waitStep_afterInstruction hu
  have hpending : v.pending = s.pending := by
    rw [waitStep_frame hv]
    exact (exec_pending he).trans (by rw [hframe])
  refine ⟨v, hresume, hnone, hsome, hu, (open_step_of_completed hs hg hw hi he hf hv).trans ?_⟩
  rw [endTick_eq, timerStep_dt, timerStep_st, hpending]

end Sys2Proof.Machine
